-- ==== Sys2Proof/Word.lean ====
section
/-! DEFINITION. The word types of the core (00_scope.md R10, R30, R31): a memory byte is 8 bits, a register and an
address are 16 bits, and the product of MUL CX is 32 bits. `+`, `-` and `*` on them reduce modulo the width, as R31
says. -/

namespace Sys2Proof

/-- A memory byte (R10: "memory unit: 8-bit byte"). -/
abbrev Byte := BitVec 8

/-- A register value or an address (R10: `XLEN` and `AW` are 16 bits). -/
abbrev Word := BitVec 16

/-- The exact product of two zero-extended words (R31, R425). -/
abbrev DWord := BitVec 32

end Sys2Proof
end

