-- ==== Sys2Proof/Config.lean ====
section
/-! DEFINITION. The implementation parameters of 00_scope.md R10. None is left to an implementation ("none is left to the
model except `STEP_CAP`, which belongs to the host"), and the spec leaves no value open (30_encoding.md R343), so there
is no free value here. `STEP_CAP` is an argument of the driver in Machine/HostPorts.lean. -/

namespace Sys2Proof

/-- `MEM_SIZE`: bytes of memory, addresses 0x0000 to 0xFFFF. -/
def Config.memSize : Nat := 65536

/-- `IP_RESET` (R10, 10_state.md R140). -/
def Config.ipReset : Word := 0x0000#16

/-- `SP_RESET` (R10, 10_state.md R140: "Initial sp = 0xFFF0"). -/
def Config.spReset : Word := 0xFFF0#16

/-- Reset value of AX, BX, CX, DX, SI, DI and BP. UNVERIFIED (the spec's own decision D2, log 1), unsafe. -/
def Config.gprReset : Word := 0x0000#16

/-- Reset value of FLAGS. UNVERIFIED (the spec's own decision D3, log 2), unsafe. -/
def Config.flagsReset : Word := 0x0000#16

/-- What a byte of memory that nothing has written reads as (10_state.md R130: "zero-initialized at construction"). -/
def Config.memReset : Byte := 0x00#8

end Sys2Proof
end

