-- ==== Sys2Proof/Machine/State.lean ====
section
/-! DEFINITION. The state of the core, the "CPU aggregate" of 10_state.md: the register file, the halted flag with its
cause, the diagnostic latch and the memory (R100 to R130). Nothing else is state (R150). -/

namespace Sys2Proof.Machine

/-- The eight general/pointer registers (10_state.md R100). -/
inductive Reg where
  | ax | bx | cx | dx | si | di | sp | bp
deriving DecidableEq, Repr

/-- The byte array `M` (10_state.md R130) as the list of the bytes that differ from its reset contents: addresses strictly
rising, no byte 0x00 (`Memory.wf` in Machine/Ops.lean; log 19). -/
abbrev Memory := List Host.Cell

/-- Everything the spec gives the core. -/
structure State where
  /-- AX (R100). -/
  ax : Word
  /-- BX (R100). -/
  bx : Word
  /-- CX (R100). -/
  cx : Word
  /-- DX (R100). -/
  dx : Word
  /-- SI (R100). -/
  si : Word
  /-- DI (R100). -/
  di : Word
  /-- SP, the address of the last word pushed (R100, 20_memory.md R230). -/
  sp : Word
  /-- BP (R100). -/
  bp : Word
  /-- IP, the address of the next byte to fetch (R105). -/
  ip : Word
  /-- FLAGS, the whole 16-bit word, inert bits included (R110, R112). -/
  flags : Word
  /-- The halted flag: Running is `false`, Halted `true` (R120). -/
  halted : Bool
  /-- `halt_cause`: 0 none, 1 HLT, 2 unrecognized opcode (R121). -/
  haltCause : BitVec 2
  /-- `diag_valid` of the diagnostic latch (R122). -/
  diagValid : Bool
  /-- `diag_opcode` (R122). -/
  diagOpcode : Byte
  /-- `diag_addr` (R122). -/
  diagAddr : Word
  /-- The memory (R130). -/
  mem : Memory
deriving DecidableEq, Repr

/-- Reasons the machine stops with a fault: none. No access, operation or instruction of this core can fail, and its one
error path halts it in a next state (60_exceptions.md R600, R601). Safe: nothing is shut out by it (log 17). -/
inductive Fault where
deriving DecidableEq, Repr

/-- Reasons the model gives no meaning to an instruction. -/
inductive Refusal where
  /-- Raised by an arm of `exec` whose instruction has no meaning in the model. Safe. No arm raises it: every row of the
  opcode table has its meaning. -/
  | notModelled (mnemonic : String)
deriving DecidableEq, Repr

/-- The state `Reset` leaves (10_state.md R140, 70_reset_and_hazards.md R700). SP, IP, the halted flag and the memory are
the source's values; those of the other registers, FLAGS, `halt_cause` and the latch are the spec's decisions D2, D3 and
D5 (UNVERIFIED, logs 1, 2 and 4). -/
def State.reset : State where
  ax := Config.gprReset
  bx := Config.gprReset
  cx := Config.gprReset
  dx := Config.gprReset
  si := Config.gprReset
  di := Config.gprReset
  sp := Config.spReset
  bp := Config.gprReset
  ip := Config.ipReset
  flags := Config.flagsReset
  halted := false
  haltCause := 0#2
  diagValid := false
  diagOpcode := 0x00#8
  diagAddr := 0x0000#16
  mem := []

end Sys2Proof.Machine
end

