-- ==== Sys2Proof/Machine/Flags.lean ====
section
/-! DEFINITION. The flag word (10_state.md R110 to R113) and the one routine that writes it, `set_sz` (42_alu.md R420). -/

namespace Sys2Proof.Machine

/-- The nine named flags of the layout (R110). -/
inductive Flag where
  | overflow | direction | interrupt | trap | sign | zero | auxCarry | parity | carry
deriving DecidableEq, Repr

/-- The bit of a flag in FLAGS (R110). Sign and zero are the source's; the other seven are names of inert bits by the spec's
decision D4. UNVERIFIED (log 3), safe: no rule reads or writes them. -/
def flagPosition : Flag → Nat
  | .overflow => 11
  | .direction => 10
  | .interrupt => 9
  | .trap => 8
  | .sign => 7
  | .zero => 6
  | .auxCarry => 4
  | .parity => 2
  | .carry => 0

/-- The value of a named flag. -/
def State.flag (s : State) (f : Flag) : Bool := s.flags.getLsbD (flagPosition f)

/-- `FLAGS.Z` (00_scope.md R32). -/
def State.zf (s : State) : Bool := s.flag .zero

/-- `FLAGS.S` (00_scope.md R32). -/
def State.sf (s : State) : Bool := s.flag .sign

/-- The flag word after `set_sz(v)`: `(FLAGS & 0xFF3F) | (s << 7) | (z << 6)` (R420). -/
def szWord (flags v : Word) : Word :=
  let z : Word := if v = 0x0000#16 then 1#16 else 0#16
  let s : Word := if v.getLsbD 15 then 1#16 else 0#16
  (flags &&& 0xFF3F#16) ||| (s <<< 7) ||| (z <<< 6)

/-- `set_sz(v)` (R420). -/
def State.setSz (s : State) (v : Word) : State := { s with flags := szWord s.flags v }

end Sys2Proof.Machine
end

