-- ==== Sys2Proof/Syntax.lean ====
section
/-! DEFINITION. The instructions: one constructor per row of spec/opcode_table.json (30_encoding.md R340), operands
already pulled out of the bytes. The names are the spec's x86 spellings and carry no x86 semantics (R350, 90_conflicts.md
C4; log 15). -/

namespace Sys2Proof

/-- An instruction (R340). The two no-op selector variants and the unrecognized opcode are rows of the map, so they are
instructions here: each takes a whole step (R322, R342, 60_exceptions.md R600). -/
inductive Instr where
  /-- `MOV AX, imm16` (R400). -/
  | movAxImm16 (imm : Word)
  /-- `MOV BX, imm16` (R401). -/
  | movBxImm16 (imm : Word)
  /-- `MOV CX, imm16` (R402). -/
  | movCxImm16 (imm : Word)
  /-- `INC AX` (R422). -/
  | incAx
  /-- `DEC AX` (R423). -/
  | decAx
  /-- `DEC CX` (R424). -/
  | decCx
  /-- `PUSH AX` (R460). -/
  | pushAx
  /-- `POP AX` (R461). -/
  | popAx
  /-- `MUL CX` (R425). -/
  | mulCx
  /-- `.byte 0xF7, sel` with a selector other than 0xE1 (R426). -/
  | f7Nop (sel : Byte)
  /-- `CMP CX, imm16` (R427). -/
  | cmpCxImm16 (imm : Word)
  /-- `.byte 0x81, sel` with a selector other than 0xF9 (R428). -/
  | op81Nop (sel : Byte)
  /-- `JNZ rel8` (R480). -/
  | jnzRel8 (rel : Byte)
  /-- `HLT` (R481). -/
  | hlt
  /-- `.byte op`, an opcode byte outside the map (R600). -/
  | unrecognized (op : Byte)
deriving DecidableEq, Repr

/-- The number of bytes of an instruction (30_encoding.md R300, the length column of R340). -/
def Instr.length : Instr → Nat
  | .movAxImm16 _ => 3
  | .movBxImm16 _ => 3
  | .movCxImm16 _ => 3
  | .incAx => 1
  | .decAx => 1
  | .decCx => 1
  | .pushAx => 1
  | .popAx => 1
  | .mulCx => 2
  | .f7Nop _ => 2
  | .cmpCxImm16 _ => 4
  | .op81Nop _ => 2
  | .jnzRel8 _ => 2
  | .hlt => 1
  | .unrecognized _ => 1

end Sys2Proof
end

