-- ==== Sys2Proof/WellFormed.lean ====
section
/-! DEFINITION. Which instructions the encoding can spell: a no-op variant never carries the implemented selector, and an
unrecognized opcode is none of the twelve (30_encoding.md R340, R341, R342). Every other operand may take every value. -/

namespace Sys2Proof

/-- The 12 opcode bytes of R340. -/
def opcodeBytes : List Byte :=
  [0xB8#8, 0xBB#8, 0xB9#8, 0x40#8, 0x48#8, 0x49#8, 0x50#8, 0x58#8, 0xF7#8, 0x81#8, 0x75#8, 0xF4#8]

/-- The instruction is the reading of some bytes (R340 to R342, the `excludes` of R344). -/
def Instr.wellFormed : Instr → Bool
  | .movAxImm16 _ => true
  | .movBxImm16 _ => true
  | .movCxImm16 _ => true
  | .incAx => true
  | .decAx => true
  | .decCx => true
  | .pushAx => true
  | .popAx => true
  | .mulCx => true
  | .f7Nop sel => sel != 0xE1#8
  | .cmpCxImm16 _ => true
  | .op81Nop sel => sel != 0xF9#8
  | .jnzRel8 _ => true
  | .hlt => true
  | .unrecognized op => !opcodeBytes.contains op

end Sys2Proof
end

