-- ==== Sys2Proof/Decode.lean ====
section
/-! DEFINITION. The decoder and the encoder of 30_encoding.md, both written from the opcode map R340 and the formats of
R301. The decoder is total: every first byte has a meaning (R343); only a byte string shorter than the instruction it
begins is rejected, by name. -/

namespace Sys2Proof

/-! ### Byte order (20_memory.md R203) -/

/-- `low-byte | (high-byte << 8)` (20_memory.md R201, R211; 30_encoding.md R302). -/
def wordOfBytes (lo hi : Byte) : Word :=
  lo.setWidth 16 ||| (hi.setWidth 16 <<< 8)

/-- `v[7:0]` (00_scope.md R30). -/
def lowByte (v : Word) : Byte := v.extractLsb' 0 8

/-- `v[15:8]` (00_scope.md R30). -/
def highByte (v : Word) : Byte := v.extractLsb' 8 8

/-! ### The opcode and selector bytes (R340) -/

abbrev opMovAx : Byte := 0xB8#8
abbrev opMovBx : Byte := 0xBB#8
abbrev opMovCx : Byte := 0xB9#8
abbrev opIncAx : Byte := 0x40#8
abbrev opDecAx : Byte := 0x48#8
abbrev opDecCx : Byte := 0x49#8
abbrev opPushAx : Byte := 0x50#8
abbrev opPopAx : Byte := 0x58#8
abbrev opF7 : Byte := 0xF7#8
abbrev op81 : Byte := 0x81#8
abbrev opJnz : Byte := 0x75#8
abbrev opHlt : Byte := 0xF4#8
/-- The one implemented selector after 0xF7 (R304). -/
abbrev selMulCx : Byte := 0xE1#8
/-- The one implemented selector after 0x81 (R304). -/
abbrev selCmpCx : Byte := 0xF9#8

/-! ### Decoding -/

/-- The instruction that begins at the first of four consecutive bytes (R320, R340): the opcode is matched as a whole
byte, the selector of 0xF7 and 0x81 as a whole byte (R304), the immediate is little-endian (R302). Bytes past the
instruction's length are not looked at. -/
def decodeWindow (b0 b1 b2 b3 : Byte) : Instr :=
  if b0 = opMovAx then .movAxImm16 (wordOfBytes b1 b2)
  else if b0 = opMovBx then .movBxImm16 (wordOfBytes b1 b2)
  else if b0 = opMovCx then .movCxImm16 (wordOfBytes b1 b2)
  else if b0 = opIncAx then .incAx
  else if b0 = opDecAx then .decAx
  else if b0 = opDecCx then .decCx
  else if b0 = opPushAx then .pushAx
  else if b0 = opPopAx then .popAx
  else if b0 = opF7 then (if b1 = selMulCx then .mulCx else .f7Nop b1)
  else if b0 = op81 then (if b1 = selCmpCx then .cmpCxImm16 (wordOfBytes b2 b3) else .op81Nop b1)
  else if b0 = opJnz then .jnzRel8 b1
  else if b0 = opHlt then .hlt
  else .unrecognized b0

/-- Why a byte string is no instruction followed by the rest of the string. Only a string that ends inside an instruction
is rejected; in memory that never happens, since the byte after 0xFFFF is the one at 0x0000 (R300; log 18). -/
inductive DecodeError where
  /-- The string is empty. -/
  | noOpcode
  /-- The instruction has `needed` bytes and the string only `got`. -/
  | truncated (needed got : Nat)
deriving DecidableEq, Repr

/-- The instruction a byte string begins with, and the bytes after it. -/
def decode : List Byte → Except DecodeError (Instr × List Byte)
  | [] => .error .noOpcode
  | b0 :: rest =>
    let i := decodeWindow b0 (rest.getD 0 0#8) (rest.getD 1 0#8) (rest.getD 2 0#8)
    if i.length ≤ rest.length + 1 then .ok (i, (b0 :: rest).drop i.length)
    else .error (.truncated i.length (rest.length + 1))

/-! ### Encoding -/

/-- The bytes of an instruction, byte 0 first (R301, R340). -/
def encode : Instr → List Byte
  | .movAxImm16 imm => [opMovAx, lowByte imm, highByte imm]
  | .movBxImm16 imm => [opMovBx, lowByte imm, highByte imm]
  | .movCxImm16 imm => [opMovCx, lowByte imm, highByte imm]
  | .incAx => [opIncAx]
  | .decAx => [opDecAx]
  | .decCx => [opDecCx]
  | .pushAx => [opPushAx]
  | .popAx => [opPopAx]
  | .mulCx => [opF7, selMulCx]
  | .f7Nop sel => [opF7, sel]
  | .cmpCxImm16 imm => [op81, selCmpCx, lowByte imm, highByte imm]
  | .op81Nop sel => [op81, sel]
  | .jnzRel8 rel => [opJnz, rel]
  | .hlt => [opHlt]
  | .unrecognized op => [op]

/-! ### One word of the opcode table -/

/-- The four bytes that stand for a word `w` of `nbits` bits numbered as spec/opcode_table.json numbers a row. The table's
match word is its row's first word, and its byte 0 is its MOST significant byte (R344), so the two rows that match two
bytes, 0xF7E1 and 0x81F9, lie with bits 15..8 at the lower address. Every other row matches one byte, and later bytes
count on from bit 8. Bits from `nbits` up are 0. DESIGN CHOICE (log 20), safe: no meaning and no step uses this. -/
def tableBytes (nbits w : Nat) : List Byte :=
  let v := w % 2 ^ nbits
  let twoByteMatch := 16 ≤ nbits ∧ (v % 65536 = 0xF7E1 ∨ v % 65536 = 0x81F9)
  if twoByteMatch then
    [BitVec.ofNat 8 (v / 256), BitVec.ofNat 8 v, BitVec.ofNat 8 (v / 65536), BitVec.ofNat 8 (v / 16777216)]
  else
    [BitVec.ofNat 8 v, BitVec.ofNat 8 (v / 256), BitVec.ofNat 8 (v / 65536), BitVec.ofNat 8 (v / 16777216)]

/-- The instruction the decoder reads from one word of the opcode table (see `tableBytes`). -/
def decodeTableWord (nbits w : Nat) : Option Instr :=
  match decode (tableBytes nbits w) with
  | .ok (i, _) => some i
  | .error _ => none

end Sys2Proof
end

