-- ==== Sys2Proof/Machine/Operands.lean ====
section
/-! DEFINITION. The operand forms: a register `x[r]` (00_scope.md R32), the relative offset of JNZ (30_encoding.md R303) and
the widened operands of MUL (42_alu.md R425). An immediate is used as it is decoded (R302), and the selector byte is
no operand of any effect (R304). -/

namespace Sys2Proof.Machine

/-- `x[r]` (R32). -/
def State.getReg (s : State) : Reg → Word
  | .ax => s.ax
  | .bx => s.bx
  | .cx => s.cx
  | .dx => s.dx
  | .si => s.si
  | .di => s.di
  | .sp => s.sp
  | .bp => s.bp

/-- `x[r] <- v` (R32). No register is hard-wired (10_state.md R100), so every write takes. -/
def State.setReg (s : State) (r : Reg) (v : Word) : State :=
  match r with
  | .ax => { s with ax := v }
  | .bx => { s with bx := v }
  | .cx => { s with cx := v }
  | .dx => { s with dx := v }
  | .si => { s with si := v }
  | .di => { s with di := v }
  | .sp => { s with sp := v }
  | .bp => { s with bp := v }

/-- `pc <- target` (R32). -/
def State.setIp (s : State) (target : Word) : State := { s with ip := target }

/-- `sext_16(rel8)` (R303): signed, unscaled. -/
def relOffset (rel : Byte) : Word := rel.signExtend 16

/-- `zext_32(a) * zext_32(b)` (R31, R425): exact in 32 bits. -/
def mulWide (a b : Word) : DWord := a.setWidth 32 * b.setWidth 32

/-- `p[15:0]` of the product (R425). -/
def productLow (p : DWord) : Word := p.extractLsb' 0 16

/-- `p[31:16]` of the product (R425). -/
def productHigh (p : DWord) : Word := p.extractLsb' 16 16

end Sys2Proof.Machine
end

