-- ==== Sys2Proof/Machine/Ops.lean ====
section
/-! DEFINITION. The named operations over memory and registers: the byte primitives and 16-bit accesses (20_memory.md R200 to
R202), the fetch unit (R210, R211), the stack unit (R230, R231), the halting primitives (00_scope.md R35, 44_control.md
R481, 60_exceptions.md R600) and the fetch of a whole instruction (30_encoding.md R320). None can fail. -/

namespace Sys2Proof.Machine

/-! ### The memory list -/

/-- The byte at an address; an address the list does not hold reads as at reset (10_state.md R130). -/
def Memory.read : Memory → Nat → Byte
  | [], _ => Config.memReset
  | (k, c) :: rest, a => if k = a then c else Memory.read rest a

/-- The list without the entries at an address. -/
def Memory.erase (m : Memory) (a : Nat) : Memory := m.filter (fun cell => decide (cell.1 ≠ a))

/-- The list with an entry put before the first higher address. -/
def Memory.insert : Memory → Nat → Byte → Memory
  | [], a, b => [(a, b)]
  | (k, c) :: rest, a, b => if a < k then (a, b) :: (k, c) :: rest else (k, c) :: Memory.insert rest a b

/-- `M[a] <- b`: writing what an unlisted address reads as removes the entry, so equal memories are equal lists. -/
def Memory.write (m : Memory) (a : Nat) (b : Byte) : Memory :=
  if b = Config.memReset then m.erase a else (m.erase a).insert a b

/-- The canonical form from an address upward. -/
def Memory.wfFrom : Nat → Memory → Bool
  | _, [] => true
  | lo, (k, c) :: rest =>
    decide (lo ≤ k) && decide (k < Config.memSize) && decide (c ≠ Config.memReset) && Memory.wfFrom (k + 1) rest

/-- The canonical form: addresses strictly rising inside the address space, no byte that reads as an unlisted one. -/
def Memory.wf (m : Memory) : Bool := Memory.wfFrom 0 m

/-! ### The memory interface -/

/-- `MemRead8(a)` (R200). -/
def State.memRead8 (s : State) (a : Word) : Byte := s.mem.read a.toNat

/-- `MemWrite8(a, b)` (R200). -/
def State.memWrite8 (s : State) (a : Word) (b : Byte) : State := { s with mem := s.mem.write a.toNat b }

/-- `MemRead(a, 2)`: little-endian, the second byte at `(a + 1) mod 65536` (R201; D6, log 5). -/
def State.memRead16 (s : State) (a : Word) : Word := wordOfBytes (s.memRead8 a) (s.memRead8 (a + 1#16))

/-- `MemWrite(a, 2, v)`: the low byte at `a`, then the high byte at `(a + 1) mod 65536` (R202; D6 and D8, logs 5 and 7). -/
def State.memWrite16 (s : State) (a : Word) (v : Word) : State :=
  (s.memWrite8 a (lowByte v)).memWrite8 (a + 1#16) (highByte v)

/-- The `n` bytes from an address on, wrapping after 0xFFFF. -/
def State.readBytes (s : State) (a : Word) : Nat → List Byte
  | 0 => []
  | n + 1 => s.memRead8 a :: s.readBytes (a + 1#16) n

/-- Write a string of bytes from an address on, wrapping after 0xFFFF. -/
def State.writeBytes (s : State) (a : Word) : List Byte → State
  | [] => s
  | b :: rest => (s.memWrite8 a b).writeBytes (a + 1#16) rest

/-! ### The fetch unit -/

/-- `fetch_u8()` (R210). -/
def State.fetchU8 (s : State) : Byte × State := (s.memRead8 s.ip, s.setIp (s.ip + 1#16))

/-- `fetch_u16()`: two `fetch_u8` calls, the low byte first (R211). -/
def State.fetchU16 (s : State) : Word × State :=
  let lo := s.fetchU8
  let hi := lo.2.fetchU8
  (wordOfBytes lo.1 hi.1, hi.2)

/-- The instruction at IP, and the state with IP past its bytes. Four bytes are looked at and as many consumed as the
instruction has (30_encoding.md R300, R320); a read has no side effect (20_memory.md R205), so looking further is not
observable. DESIGN CHOICE (log 16), safe; Machine/Pseudocode.lean has R320 fetch by fetch. -/
def State.fetchInstr (s : State) : Instr × State :=
  let i := decodeWindow (s.memRead8 s.ip) (s.memRead8 (s.ip + 1#16)) (s.memRead8 (s.ip + 2#16))
    (s.memRead8 (s.ip + 3#16))
  (i, s.setIp (s.ip + BitVec.ofNat 16 i.length))

/-! ### The stack unit -/

/-- `push(v)` (R230): SP down by 2, then the store at the new SP; no bounds check (R232). -/
def State.push (s : State) (v : Word) : State :=
  let sp := s.sp - 2#16
  (s.setReg .sp sp).memWrite16 sp v

/-- `pop()` (R231): the load at SP, then SP up by 2; no bounds check (R232). -/
def State.pop (s : State) : Word × State := (s.memRead16 s.sp, s.setReg .sp (s.sp + 2#16))

/-! ### The halting primitives -/

/-- `halt_cause` after a HLT (10_state.md R121; D5, log 4). -/
def haltCauseHlt : BitVec 2 := 1#2

/-- `halt_cause` after an unrecognized opcode (10_state.md R121; D5, log 4). -/
def haltCauseUnrecognized : BitVec 2 := 2#2

/-- `halt()` (00_scope.md R35, 44_control.md R481): no diagnostic is written. -/
def State.halt (s : State) : State := { s with halted := true, haltCause := haltCauseHlt }

/-- `raise UnrecognizedOpcode(op, addr)` (60_exceptions.md R600), the core's one exception: it halts the core and latches
the diagnostic. It saves nothing else and goes nowhere (R621), and there is no return from it (R610). -/
def State.raiseUnrecognizedOpcode (s : State) (op : Byte) (addr : Word) : State :=
  { s with
    halted := true
    haltCause := haltCauseUnrecognized
    diagValid := true
    diagOpcode := op
    diagAddr := addr }

end Sys2Proof.Machine
end

