-- ==== Sys2Proof/Machine/Alu.lean ====
section
/-! DEFINITION. The arithmetic instructions and the no-op selector variants (42_alu.md). Only `set_sz` writes flags, and only Z and
S (R420, R421); arithmetic wraps and never fails. -/

namespace Sys2Proof.Machine

/-- Write an arithmetic result to its register and set Z and S from it (the shared shape of R422 to R424). -/
def State.writeResultSz (s : State) (r : Reg) (v : Word) : State := (s.setReg r v).setSz v

/-- INC AX (R422). -/
def execIncAx (s : State) : Host.Outcome State Fault Refusal := .next (s.writeResultSz .ax (s.getReg .ax + 1#16))

/-- DEC AX (R423). -/
def execDecAx (s : State) : Host.Outcome State Fault Refusal := .next (s.writeResultSz .ax (s.getReg .ax - 1#16))

/-- DEC CX (R424). -/
def execDecCx (s : State) : Host.Outcome State Fault Refusal := .next (s.writeResultSz .cx (s.getReg .cx - 1#16))

/-- MUL CX (R425): the 32-bit product to DX:AX, FLAGS unchanged (90_conflicts.md C4). -/
def execMulCx (s : State) : Host.Outcome State Fault Refusal :=
  let p := mulWide (s.getReg .ax) (s.getReg .cx)
  .next ((s.setReg .ax (productLow p)).setReg .dx (productHigh p))

/-- 0xF7 with another selector (R426): nothing beyond the two bytes already fetched. -/
def execF7Nop (_sel : Byte) (s : State) : Host.Outcome State Fault Refusal := .next s

/-- CMP CX, imm16 (R427): the difference sets Z and S and is written nowhere. -/
def execCmpCxImm16 (imm : Word) (s : State) : Host.Outcome State Fault Refusal := .next (s.setSz (s.getReg .cx - imm))

/-- 0x81 with another selector (R428): nothing beyond the two bytes already fetched, no immediate (70_reset_and_hazards.md
R730; D20, log 21). -/
def execOp81Nop (_sel : Byte) (s : State) : Host.Outcome State Fault Refusal := .next s

end Sys2Proof.Machine
end

