-- ==== Sys2Proof/Machine/Control.lean ====
section
/-! DEFINITION. Control transfer, halt and the unrecognized opcode (44_control.md, 60_exceptions.md). No flag is written. -/

namespace Sys2Proof.Machine

/-- JNZ rel8 (R480): relative to IP after the operand byte; any target is legal. -/
def execJnzRel8 (rel : Byte) (s : State) : Host.Outcome State Fault Refusal :=
  .next (if s.zf = false then s.setIp (s.ip + relOffset rel) else s)

/-- HLT (R481): needs no privilege (60_exceptions.md R630). -/
def execHlt (s : State) : Host.Outcome State Fault Refusal := .next s.halt

/-- An unrecognized opcode (R600): the opcode was fetched at `(pc - 1) mod 65536` (30_encoding.md R320). -/
def execUnrecognized (op : Byte) (s : State) : Host.Outcome State Fault Refusal :=
  .next (s.raiseUnrecognizedOpcode op (s.ip - 1#16))

end Sys2Proof.Machine
end

