-- ==== Sys2Proof/Machine/DataMove.lean ====
section
/-! DEFINITION. The load-immediate instructions (41_data_move.md). Each meaning starts from the state in which IP is already past
the instruction's bytes (30_encoding.md R320; log 16), and writes no flag (10_state.md R113). -/

namespace Sys2Proof.Machine

/-- MOV AX, imm16 (R400). -/
def execMovAxImm16 (imm : Word) (s : State) : Host.Outcome State Fault Refusal := .next (s.setReg .ax imm)

/-- MOV BX, imm16 (R401). -/
def execMovBxImm16 (imm : Word) (s : State) : Host.Outcome State Fault Refusal := .next (s.setReg .bx imm)

/-- MOV CX, imm16 (R402). -/
def execMovCxImm16 (imm : Word) (s : State) : Host.Outcome State Fault Refusal := .next (s.setReg .cx imm)

end Sys2Proof.Machine
end

