-- ==== Sys2Proof/Machine/Stack.lean ====
section
/-! DEFINITION. The stack instructions, the core's only data loads and stores (43_stack.md). No flag is written. -/

namespace Sys2Proof.Machine

/-- PUSH AX (R460). -/
def execPushAx (s : State) : Host.Outcome State Fault Refusal := .next (s.push (s.getReg .ax))

/-- POP AX (R461). -/
def execPopAx (s : State) : Host.Outcome State Fault Refusal :=
  let popped := s.pop
  .next (popped.2.setReg .ax popped.1)

end Sys2Proof.Machine
end

