-- ==== Sys2Proof/Machine/Dispatch.lean ====
section
/-! DEFINITION. The dispatch of 30_encoding.md R320, one arm per row of the opcode table. `exec` runs a fetched instruction in a
state whose IP is past its bytes; whether the core is halted is the step's business (Machine/Step.lean; log 16). -/

namespace Sys2Proof.Machine

def exec (i : Instr) (s : State) : Host.Outcome State Fault Refusal :=
  match i with
  | .movAxImm16 imm => Sys2Proof.Machine.execMovAxImm16 imm s
  | .movBxImm16 imm => Sys2Proof.Machine.execMovBxImm16 imm s
  | .movCxImm16 imm => Sys2Proof.Machine.execMovCxImm16 imm s
  | .incAx => Sys2Proof.Machine.execIncAx s
  | .decAx => Sys2Proof.Machine.execDecAx s
  | .decCx => Sys2Proof.Machine.execDecCx s
  | .pushAx => Sys2Proof.Machine.execPushAx s
  | .popAx => Sys2Proof.Machine.execPopAx s
  | .mulCx => Sys2Proof.Machine.execMulCx s
  | .f7Nop sel => Sys2Proof.Machine.execF7Nop sel s
  | .cmpCxImm16 imm => Sys2Proof.Machine.execCmpCxImm16 imm s
  | .op81Nop sel => Sys2Proof.Machine.execOp81Nop sel s
  | .jnzRel8 rel => Sys2Proof.Machine.execJnzRel8 rel s
  | .hlt => Sys2Proof.Machine.execHlt s
  | .unrecognized op => Sys2Proof.Machine.execUnrecognized op s

end Sys2Proof.Machine
end

