-- ==== Sys2Proof/Machine/Step.lean ====
section
/-! DEFINITION. The step of 30_encoding.md R320, and how the host places one instruction where the next step fetches it. -/

namespace Sys2Proof.Machine

/-- `Step()` (R320): nothing while halted (R321), else one instruction, fetched and executed. -/
def step (s : State) : Host.Outcome State Fault Refusal :=
  if s.halted then .next s else exec s.fetchInstr.1 s.fetchInstr.2

/-- The state with the instruction of one opcode-table word stored at IP, operand bytes past the word's bits zero
(`tableBytes`), and Running, which a fetch needs (R321). No move of the machine or of its host (log 22). -/
def State.withFetchWord (s : State) (nbits w : Nat) : State :=
  { s.writeBytes s.ip (tableBytes nbits w) with halted := false }

end Sys2Proof.Machine
end

