-- ==== Sys2Proof/Machine/Assembler.lean ====
section
/-! DEFINITION. The assembler spelling of 30_encoding.md R350, as far as it computes something: the immediates it admits, the
displacement of `JNZ label`, and the name of each row. It is the spec's own choice (D18, log 15) and no part of a step. -/

namespace Sys2Proof.Machine

/-- An immediate as written: 0 to 65535 stands for itself, `-n` with 1 ≤ n ≤ 32768 for `65536 - n` (R350). -/
def asmImm (n : Int) : Option Word :=
  if 0 ≤ n ∧ n ≤ 65535 then some (BitVec.ofNat 16 n.toNat)
  else if -32768 ≤ n ∧ n < 0 then some (BitVec.ofNat 16 (65536 + n).toNat)
  else none

/-- `JNZ label` at an address: `rel8 = label - (address + 2)`, which must lie in -128 to 127 (R350). -/
def asmJnz (label address : Word) : Option Byte :=
  let d : Int := (label.toNat : Int) - (address.toNat + 2)
  if -128 ≤ d ∧ d ≤ 127 then some (BitVec.ofInt 8 d) else none

/-- The spelling of each row without its operands (R350); the rows without a mnemonic are written as data. -/
def asmName : Instr → String
  | .movAxImm16 _ => "MOV AX,"
  | .movBxImm16 _ => "MOV BX,"
  | .movCxImm16 _ => "MOV CX,"
  | .incAx => "INC AX"
  | .decAx => "DEC AX"
  | .decCx => "DEC CX"
  | .pushAx => "PUSH AX"
  | .popAx => "POP AX"
  | .mulCx => "MUL CX"
  | .f7Nop _ => ".byte 0xF7,"
  | .cmpCxImm16 _ => "CMP CX,"
  | .op81Nop _ => ".byte 0x81,"
  | .jnzRel8 _ => "JNZ"
  | .hlt => "HLT"
  | .unrecognized _ => ".byte"

end Sys2Proof.Machine
end

