-- ==== Sys2Proof/Machine/HostPorts.lean ====
section
/-! DEFINITION. The host's transactions between steps (00_scope.md R20): `Load`, `Observe`, `HostPop` (20_memory.md R250 to R252)
and the driver of 70_reset_and_hazards.md R720 to R722. `Reset` is `State.reset`, `Step` is `step`. -/

namespace Sys2Proof.Machine

/-- `Load(a, b)` (R250). The host uses it only between `Reset` and the first `Step` (D10, log 10); `boot` does just that. -/
def State.load (s : State) (a : Word) (b : Byte) : State := s.memWrite8 a b

/-- `Load` a string of bytes at consecutive addresses from `k` on. -/
def State.loadFrom (s : State) (k : Nat) : List Byte → State
  | [] => s
  | b :: rest => (s.load (BitVec.ofNat 16 k) b).loadFrom (k + 1) rest

/-- The boot sequence up to the first step (R710): `Reset`, then the program's bytes at addresses 0, 1, 2, and on. -/
def boot (program : List Byte) : State := State.reset.loadFrom 0 program

/-- What the host may ask to see (R251; D9, log 9). -/
inductive Observable where
  | reg (r : Reg)
  | ip
  | flags
  | halted
  | haltCause
  | diagValid
  | diagOpcode
  | diagAddr
  | memByte (a : Word)
deriving DecidableEq, Repr

/-- `Observe` (R251): the value of one observable, as a number. It returns no state, so it can change none. -/
def observe (s : State) : Observable → Nat
  | .reg r => (s.getReg r).toNat
  | .ip => s.ip.toNat
  | .flags => s.flags.toNat
  | .halted => s.halted.toNat
  | .haltCause => s.haltCause.toNat
  | .diagValid => s.diagValid.toNat
  | .diagOpcode => s.diagOpcode.toNat
  | .diagAddr => s.diagAddr.toNat
  | .memByte a => (s.memRead8 a).toNat

/-- `HostPop` (R252): the stack unit's pop, in Running and Halted alike; not a step (D11, log 11). -/
def hostPop (s : State) : Word × State := s.pop

/-- How a run ends (R722; D21, log 12). -/
inductive RunEnd where
  /-- ENDS HALTED, in the first state with `halted = true`. -/
  | endsHalted (s : State)
  /-- ENDS CAPPED: the cap is spent with `halted` still false; the state is not final. -/
  | endsCapped (s : State)
  /-- A step refused its instruction; no step of this model does. Safe. -/
  | refused (r : Refusal)
deriving DecidableEq, Repr

/-- The driver (R720, R721): step until halted or until `cap` steps are taken. `STEP_CAP` is the host's argument (D12). -/
def drive : Nat → State → RunEnd
  | 0, s => if s.halted then .endsHalted s else .endsCapped s
  | cap + 1, s =>
    if s.halted then .endsHalted s
    else
      match step s with
      | .next t => drive cap t
      | .fault r => nomatch r
      | .refused r => .refused r

end Sys2Proof.Machine
end

