-- ==== Sys2Proof/Machine/Pseudocode.lean ====
section
/-! DEFINITION. The pseudocode of `Step()` as 30_encoding.md R320 writes it, each byte fetched where R320 and the instruction
rules fetch it, with the effects of R400 to R600 in place. It is the clear form the machine's `step` (which decodes a
window of four bytes first) is compared with; it shares only the named operations with it, not the decoder, `Instr` or
the meanings. -/

namespace Sys2Proof.Machine

/-- The nested dispatch of opcode 0xF7 (R320, R425, R426). -/
def pseudoF7 (s : State) : State :=
  let sel := s.fetchU8
  if sel.1 = 0xE1#8 then
    let p := mulWide sel.2.ax sel.2.cx
    (sel.2.setReg .ax (productLow p)).setReg .dx (productHigh p)
  else sel.2

/-- The nested dispatch of opcode 0x81 (R320, R427, R428). -/
def pseudo81 (s : State) : State :=
  let sel := s.fetchU8
  if sel.1 = 0xF9#8 then
    let imm := sel.2.fetchU16
    imm.2.setSz (imm.2.cx - imm.1)
  else sel.2

/-- `Step()` (R320). -/
def pseudoStep (s : State) : State :=
  if s.halted then s
  else
    let op := s.fetchU8
    let s := op.2
    if op.1 = 0xB8#8 then s.fetchU16.2.setReg .ax s.fetchU16.1
    else if op.1 = 0xBB#8 then s.fetchU16.2.setReg .bx s.fetchU16.1
    else if op.1 = 0xB9#8 then s.fetchU16.2.setReg .cx s.fetchU16.1
    else if op.1 = 0x40#8 then (s.setReg .ax (s.ax + 1#16)).setSz (s.ax + 1#16)
    else if op.1 = 0x48#8 then (s.setReg .ax (s.ax - 1#16)).setSz (s.ax - 1#16)
    else if op.1 = 0x49#8 then (s.setReg .cx (s.cx - 1#16)).setSz (s.cx - 1#16)
    else if op.1 = 0x50#8 then s.push s.ax
    else if op.1 = 0x58#8 then s.pop.2.setReg .ax s.pop.1
    else if op.1 = 0xF7#8 then pseudoF7 s
    else if op.1 = 0x81#8 then pseudo81 s
    else if op.1 = 0x75#8 then
      let rel := s.fetchU8
      if rel.2.flags.getLsbD 6 = false then rel.2.setIp (rel.2.ip + rel.1.signExtend 16) else rel.2
    else if op.1 = 0xF4#8 then s.halt
    else s.raiseUnrecognizedOpcode op.1 (s.ip - 1#16)

end Sys2Proof.Machine
end

