-- ==== Sys2Proof/Safety.lean ====
section
/-! DEFINITION. The terms in which claims about the machine are stated: what an instruction leaves unchanged, when bytes in
memory run as an instruction, and the invariant every step keeps. -/

namespace Sys2Proof.Machine

/-- Every general/pointer register but those listed holds what it held. -/
def RegsKept (written : List Reg) (s t : State) : Prop :=
  ∀ r : Reg, r ∉ written → t.getReg r = s.getReg r

/-- Every bit of FLAGS but Z and S holds what it held (10_state.md R112). -/
def InertFlagsKept (s t : State) : Prop :=
  ∀ k : Nat, k ≠ 6 → k ≠ 7 → t.flags.getLsbD k = s.flags.getLsbD k

/-- The halted flag, its cause and the diagnostic latch hold what they held. -/
def StatusKept (s t : State) : Prop :=
  t.halted = s.halted ∧ t.haltCause = s.haltCause ∧ t.diagValid = s.diagValid ∧ t.diagOpcode = s.diagOpcode ∧
    t.diagAddr = s.diagAddr

/-- Every byte of memory outside the stored addresses reads as it read. -/
def MemKeptOutside (stored : List Word) (s t : State) : Prop :=
  ∀ a : Word, a ∉ stored → t.memRead8 a = s.memRead8 a

/-- The frame of an instruction that stores nothing and does not jump: it changes no register but those listed, and
neither IP, the halt status nor any byte of memory. FLAGS are said apart. -/
def RestKept (written : List Reg) (s t : State) : Prop :=
  t.ip = s.ip ∧ RegsKept written s t ∧ StatusKept s t ∧ MemKeptOutside [] s t

/-- Z and S are those of a 16-bit value (42_alu.md R420). -/
def SzOf (t : State) (v : Nat) : Prop :=
  (t.zf = true ↔ v = 0) ∧ (t.sf = true ↔ 0x8000 ≤ v)

/-- In every Running state with these bytes at IP, wrapping after 0xFFFF, a step is this instruction executed with IP past
the bytes (30_encoding.md R320). -/
def RunsAs (bytes : List Byte) (i : Instr) : Prop :=
  ∀ s : State, s.halted = false → s.readBytes s.ip bytes.length = bytes →
    step s = exec i (s.setIp (s.ip + BitVec.ofNat 16 bytes.length))

/-- The state with another flag word, to compare two runs. -/
def State.withFlags (s : State) (f : Word) : State := { s with flags := f }

/-- The state with another halt record (`halt_cause` and the diagnostic latch), to compare two runs. -/
def State.withHaltRecord (s : State) (cause : BitVec 2) (valid : Bool) (op : Byte) (addr : Word) : State :=
  { s with haltCause := cause, diagValid := valid, diagOpcode := op, diagAddr := addr }

/-- What holds of a state in every run from reset: the memory is in canonical form; no bit of FLAGS but Z and S is set,
and not both (10_state.md R112, 42_alu.md R420); `halt_cause` is never 3 and tells whether the core is halted (R121); the
latch is written by the unrecognized-opcode halt only, names an opcode outside the map and the byte before IP (R122,
60_exceptions.md R600); SI, DI and BP are written by nothing (10_state.md R101). -/
structure StateInv (s : State) : Prop where
  memCanonical : s.mem.wf = true
  inertFlagsClear : ∀ k : Nat, k ≠ 6 → k ≠ 7 → s.flags.getLsbD k = false
  notZeroAndSign : ¬ (s.zf = true ∧ s.sf = true)
  causeLegal : s.haltCause ≠ 3#2
  haltedIffCause : s.halted = true ↔ s.haltCause ≠ 0#2
  latchedIffUnrecognized : s.diagValid = true ↔ s.haltCause = haltCauseUnrecognized
  latchClear : s.diagValid = false → s.diagOpcode = 0#8 ∧ s.diagAddr = 0#16
  latchNames : s.diagValid = true → s.diagOpcode ∉ opcodeBytes ∧ s.ip = s.diagAddr + 1#16
  unwrittenRegs : s.si = Config.gprReset ∧ s.di = Config.gprReset ∧ s.bp = Config.gprReset

end Sys2Proof.Machine
end

