-- ==== Sys2Proof/Certificates/Slice0/Obligations.lean ====
section
/-! DEFINITION. The statements for the provers, taken from the numbered rules of spec/. Terms such as RestKept, SzOf and RunsAs are
defined in Sys2Proof/Safety.lean. `exec` starts in a state whose IP is already past the instruction's bytes (log 16), so
"IP unchanged by exec" is the IP advance of 10_state.md R106, which RunsAs puts before it. -/

open Sys2Proof Sys2Proof.Machine

/-! ## Encoding -/

/-- 30_encoding.md sections 1 and 3: no bit of an encoding is dropped. Every well-formed instruction, with every operand
value, is read back from its bytes, whatever bytes follow. -/
def Obligations.DecodeInvertsEncode : Prop :=
  ∀ (i : Instr) (rest : List Byte), i.wellFormed = true → decode (encode i ++ rest) = .ok (i, rest)

/-- 30_encoding.md section 3: whatever the decoder reads is well-formed and was spelled by exactly the bytes consumed, so
every byte string has one reading. -/
def Obligations.EncodeInvertsDecode : Prop :=
  ∀ (bytes rest : List Byte) (i : Instr), decode bytes = .ok (i, rest) →
    i.wellFormed = true ∧ encode i ++ rest = bytes

/-- 30_encoding.md section 1 (the length rule the spec derives): four bytes always hold an instruction; its length is fixed
by byte 0 but for 0x81, where selector 0xF9 makes it 4 and any other 2. -/
def Obligations.LengthFromFirstBytes : Prop :=
  ∀ (b0 b1 b2 b3 : Byte) (rest : List Byte), ∃ i : Instr,
    decode (b0 :: b1 :: b2 :: b3 :: rest) = .ok (i, (b0 :: b1 :: b2 :: b3 :: rest).drop i.length) ∧
    i.length =
      (if b0 = 0xB8#8 ∨ b0 = 0xBB#8 ∨ b0 = 0xB9#8 then 3
       else if b0 = 0x81#8 then (if b1 = 0xF9#8 then 4 else 2)
       else if b0 = 0xF7#8 ∨ b0 = 0x75#8 then 2
       else 1)

/-- 30_encoding.md section 3 (the list of illegal opcodes the spec derives from its map): the decoder reads a first byte as
unrecognized exactly on the ranges the spec lists, and those are 244 values. -/
def Obligations.UnrecognizedOpcodeRanges : Prop :=
  (∀ b0 b1 b2 b3 : Byte,
    decodeWindow b0 b1 b2 b3 = .unrecognized b0 ↔
      (b0.toNat ≤ 0x3F ∨ (0x41 ≤ b0.toNat ∧ b0.toNat ≤ 0x47) ∨ (0x4A ≤ b0.toNat ∧ b0.toNat ≤ 0x4F) ∨
        (0x51 ≤ b0.toNat ∧ b0.toNat ≤ 0x57) ∨ (0x59 ≤ b0.toNat ∧ b0.toNat ≤ 0x74) ∨
        (0x76 ≤ b0.toNat ∧ b0.toNat ≤ 0x80) ∨ (0x82 ≤ b0.toNat ∧ b0.toNat ≤ 0xB7) ∨ b0.toNat = 0xBA ∨
        (0xBC ≤ b0.toNat ∧ b0.toNat ≤ 0xF3) ∨ b0.toNat = 0xF5 ∨ b0.toNat = 0xF6 ∨ 0xF8 ≤ b0.toNat)) ∧
  ((List.range 256).filter
    (fun n => decodeWindow (BitVec.ofNat 8 n) 0#8 0#8 0#8 == .unrecognized (BitVec.ofNat 8 n))).length = 244

/-- Words written out from the encodings of 30_encoding.md section 3 and the instruction files, one or more a family. -/
def Obligations.SpecWordsDecode : Prop :=
  decode [0b10111000#8, 0x34#8, 0x12#8] = .ok (.movAxImm16 0x1234#16, []) ∧
  decode [0b10111001#8, 0x05#8, 0x00#8] = .ok (.movCxImm16 0x0005#16, []) ∧
  decode [0b01001001#8] = .ok (.decCx, []) ∧
  decode [0b11110111#8, 0b11100001#8] = .ok (.mulCx, []) ∧
  decode [0b11110111#8, 0xE0#8] = .ok (.f7Nop 0xE0#8, []) ∧
  decode [0b10000001#8, 0b11111001#8, 0x01#8, 0x80#8] = .ok (.cmpCxImm16 0x8001#16, []) ∧
  decode [0b10000001#8, 0xF8#8, 0x05#8, 0x00#8] = .ok (.op81Nop 0xF8#8, [0x05#8, 0x00#8]) ∧
  decode [0b01010000#8] = .ok (.pushAx, []) ∧
  decode [0b01110101#8, 0xF7#8] = .ok (.jnzRel8 0xF7#8, []) ∧
  decode [0b11110100#8] = .ok (.hlt, []) ∧
  decode [0x90#8] = .ok (.unrecognized 0x90#8, [])

/-! ## The step -/

/-- 30_encoding.md section 2: when the bytes at IP decode to an instruction, a Running step is that instruction executed
with IP moved past its bytes. -/
def Obligations.StepRunsDecodedInstruction : Prop :=
  ∀ (s : State) (n : Nat) (i : Instr) (rest : List Byte), s.halted = false →
    decode (s.readBytes s.ip n) = .ok (i, rest) →
    step s = exec i (s.setIp (s.ip + BitVec.ofNat 16 i.length))

/-- R321. -/
def Obligations.HaltedStepChangesNothing : Prop :=
  ∀ s : State, s.halted = true → step s = .next s

/-- 30_encoding.md section 2, with the effects of 41_data_move.md to 44_control.md and 60_exceptions.md section 1 in its arms:
the machine's step is the pseudocode, each byte fetched where the rules fetch it. What the two halting arms record is the
spec's decision D5 (log 4). That the push and pop arms wrap the second byte's address at 0xFFFF is the spec's own inference
(D6, log 5), and that SP may be odd there its decision D7 (log 6). -/
def Obligations.StepFollowsDispatchPseudocode : Prop :=
  ∀ s : State, step s = .next (pseudoStep s)

/-- 60_exceptions.md section 1 and 30_encoding.md section 3: no state makes a step stop. -/
def Obligations.EveryStepCompletes : Prop :=
  ∀ s : State, ∃ t : State, step s = .next t

/-- Every step keeps the invariant StateInv. It rests on the spec's decisions D3 and D5 (logs 2 and 4) for the inert bits
and the halt record, and on D2 (log 1) for SI, DI and BP. -/
def Obligations.StepKeepsStateInv : Prop :=
  ∀ s t : State, StateInv s → step s = .next t → StateInv t

/-- The reset state meets StateInv (the spec's decisions D2, D3 and D5; logs 1, 2 and 4). -/
def Obligations.ResetMeetsStateInv : Prop :=
  StateInv State.reset

/-- The reset table of 10_state.md section 6. SP, IP, halted and memory are the source's; the other values are the spec's
decisions D2, D3 and D5 (logs 1, 2 and 4). -/
def Obligations.ResetValues : Prop :=
  (∀ r : Reg, State.reset.getReg r = if r = .sp then 0xFFF0#16 else 0x0000#16) ∧
  State.reset.ip = 0x0000#16 ∧ State.reset.flags = 0x0000#16 ∧ State.reset.halted = false ∧
  State.reset.haltCause = 0#2 ∧ State.reset.diagValid = false ∧ State.reset.diagOpcode = 0x00#8 ∧
  State.reset.diagAddr = 0x0000#16 ∧ (∀ a : Word, State.reset.memRead8 a = 0x00#8)

/-! ## The instructions -/

/-- R400, R401, R402: each load writes its register with the immediate unchanged and nothing else, FLAGS included; three
bytes, the low byte of the immediate first. -/
def Obligations.LoadImmediateWritesOneRegister : Prop :=
  ∀ imm : Word,
    (RunsAs [0xB8#8, lowByte imm, highByte imm] (.movAxImm16 imm) ∧
      ∀ s : State, ∃ t : State, exec (.movAxImm16 imm) s = .next t ∧
        t.ax = imm ∧ t.flags = s.flags ∧ RestKept [.ax] s t) ∧
    (RunsAs [0xBB#8, lowByte imm, highByte imm] (.movBxImm16 imm) ∧
      ∀ s : State, ∃ t : State, exec (.movBxImm16 imm) s = .next t ∧
        t.bx = imm ∧ t.flags = s.flags ∧ RestKept [.bx] s t) ∧
    (RunsAs [0xB9#8, lowByte imm, highByte imm] (.movCxImm16 imm) ∧
      ∀ s : State, ∃ t : State, exec (.movCxImm16 imm) s = .next t ∧
        t.cx = imm ∧ t.flags = s.flags ∧ RestKept [.cx] s t)

/-- R422, R423, R424: the register counts up or down modulo 65536, Z and S are those of its new value, every other flag bit
and all else is kept; one byte each. -/
def Obligations.IncrementDecrementWrap : Prop :=
  (RunsAs [0x40#8] .incAx ∧
    ∀ s : State, ∃ t : State, exec .incAx s = .next t ∧
      t.ax.toNat = (s.ax.toNat + 1) % 65536 ∧ SzOf t t.ax.toNat ∧ InertFlagsKept s t ∧ RestKept [.ax] s t) ∧
  (RunsAs [0x48#8] .decAx ∧
    ∀ s : State, ∃ t : State, exec .decAx s = .next t ∧
      t.ax.toNat = (s.ax.toNat + 65535) % 65536 ∧ SzOf t t.ax.toNat ∧ InertFlagsKept s t ∧ RestKept [.ax] s t) ∧
  (RunsAs [0x49#8] .decCx ∧
    ∀ s : State, ∃ t : State, exec .decCx s = .next t ∧
      t.cx.toNat = (s.cx.toNat + 65535) % 65536 ∧ SzOf t t.cx.toNat ∧ InertFlagsKept s t ∧ RestKept [.cx] s t)

/-- R420: the flag word after `set_sz(v)`, bit by bit; nothing but the flag word is written, Z and S are never both 1, and
no step of the machine touches another flag bit. -/
def Obligations.SetSzWritesOnlyZeroAndSign : Prop :=
  (∀ (s : State) (v : Word),
    s.setSz v = { s with flags := (s.setSz v).flags } ∧
    ((s.setSz v).flags.getLsbD 6 = true ↔ v.toNat = 0) ∧
    ((s.setSz v).flags.getLsbD 7 = true ↔ 0x8000 ≤ v.toNat) ∧
    (∀ k : Nat, k ≠ 6 → k ≠ 7 → (s.setSz v).flags.getLsbD k = s.flags.getLsbD k) ∧
    ¬ ((s.setSz v).zf = true ∧ (s.setSz v).sf = true)) ∧
  (∀ s t : State, step s = .next t → InertFlagsKept s t)

/-- R425: DX and AX hold the exact 32-bit product, high and low half; FLAGS and all else are kept; two bytes. -/
def Obligations.MultiplyWritesExactProduct : Prop :=
  RunsAs [0xF7#8, 0xE1#8] .mulCx ∧
  ∀ s : State, ∃ t : State, exec .mulCx s = .next t ∧
    t.dx.toNat * 65536 + t.ax.toNat = s.ax.toNat * s.cx.toNat ∧ t.flags = s.flags ∧ RestKept [.ax, .dx] s t

/-- R342, R426, R428: any other selector after 0xF7 or 0x81 takes a whole step, consumes exactly the two bytes and changes
nothing else: no halt, no diagnostic. -/
def Obligations.OtherSelectorsDoNothing : Prop :=
  (∀ sel : Byte, sel ≠ 0xE1#8 → RunsAs [0xF7#8, sel] (.f7Nop sel)) ∧
  (∀ sel : Byte, sel ≠ 0xF9#8 → RunsAs [0x81#8, sel] (.op81Nop sel)) ∧
  (∀ (sel : Byte) (s : State), exec (.f7Nop sel) s = .next s ∧ exec (.op81Nop sel) s = .next s) ∧
  (∀ s : State, s.halted = false →
    (s.memRead8 s.ip = 0xF7#8 ∧ s.memRead8 (s.ip + 1#16) ≠ 0xE1#8) ∨
      (s.memRead8 s.ip = 0x81#8 ∧ s.memRead8 (s.ip + 1#16) ≠ 0xF9#8) →
    step s = .next (s.setIp (s.ip + 2#16)))

/-- R427: Z and S are those of the difference modulo 65536, which is written nowhere; four bytes. -/
def Obligations.CompareSetsFlagsOnly : Prop :=
  ∀ imm : Word,
    RunsAs [0x81#8, 0xF9#8, lowByte imm, highByte imm] (.cmpCxImm16 imm) ∧
    ∀ s : State, ∃ t : State, exec (.cmpCxImm16 imm) s = .next t ∧
      SzOf t ((s.cx.toNat + 65536 - imm.toNat) % 65536) ∧ InertFlagsKept s t ∧ RestKept [] s t

/-- PUSH AX (43_stack.md; 20_memory.md sections 1 and 5): SP down by 2 modulo 65536, AX stored at the new SP, low byte
first, no other byte and nothing else written. The second address wraps at 0xFFFF by the spec's own inference (D6,
log 5), and SP may be odd by its decision D7 (log 6). -/
def Obligations.PushStoresBelowStackTop : Prop :=
  RunsAs [0x50#8] .pushAx ∧
  ∀ s : State, ∃ t : State, exec .pushAx s = .next t ∧
    t.sp.toNat = (s.sp.toNat + 65534) % 65536 ∧
    t.memRead8 (s.sp - 2#16) = lowByte s.ax ∧ t.memRead8 (s.sp - 2#16 + 1#16) = highByte s.ax ∧
    MemKeptOutside [s.sp - 2#16, s.sp - 2#16 + 1#16] s t ∧
    t.ip = s.ip ∧ t.flags = s.flags ∧ RegsKept [.sp] s t ∧ StatusKept s t

/-- POP AX (43_stack.md; 20_memory.md sections 1 and 5): AX gets the word at SP, low byte first, SP goes up by 2 modulo
65536, and memory, FLAGS and all else are kept. The second address wraps at 0xFFFF by the spec's own inference (D6,
log 5). -/
def Obligations.PopLoadsStackTop : Prop :=
  RunsAs [0x58#8] .popAx ∧
  ∀ s : State, ∃ t : State, exec .popAx s = .next t ∧
    t.ax.toNat = (s.memRead8 s.sp).toNat + 256 * (s.memRead8 (s.sp + 1#16)).toNat ∧
    t.sp.toNat = (s.sp.toNat + 2) % 65536 ∧ t.flags = s.flags ∧ RestKept [.ax, .sp] s t

/-- R233: pop just after push returns the value and restores SP, at every SP; as instructions, POP AX after PUSH AX restores
AX and SP. -/
def Obligations.PopUndoesPush : Prop :=
  (∀ (s : State) (v : Word), (s.push v).pop.1 = v ∧ (s.push v).pop.2.sp = s.sp) ∧
  (∀ s : State, ∃ t u : State, exec .pushAx s = .next t ∧ exec .popAx t = .next u ∧ u.ax = s.ax ∧ u.sp = s.sp)

/-- R480: with Z clear IP moves by the signed operand modulo 65536, counted from the byte after it; with Z set IP stays
there; nothing else is written; two bytes. -/
def Obligations.JnzMovesIpWhenZeroClear : Prop :=
  ∀ rel : Byte,
    RunsAs [0x75#8, rel] (.jnzRel8 rel) ∧
    ∀ s : State, ∃ t : State, exec (.jnzRel8 rel) s = .next t ∧
      (s.zf = true → t.ip = s.ip) ∧
      (s.zf = false → (t.ip.toNat : Int) = ((s.ip.toNat : Int) + rel.toInt) % 65536) ∧
      t.flags = s.flags ∧ RegsKept [] s t ∧ StatusKept s t ∧ MemKeptOutside [] s t

/-- HLT (44_control.md): the core is Halted with the byte after the HLT in IP; no diagnostic, flag, register or byte is
written. The cause code 1 is the spec's decision D5 (log 4). -/
def Obligations.HltHalts : Prop :=
  RunsAs [0xF4#8] .hlt ∧
  ∀ s : State, ∃ t : State, exec .hlt s = .next t ∧
    t.halted = true ∧ t.haltCause = 1#2 ∧
    t.diagValid = s.diagValid ∧ t.diagOpcode = s.diagOpcode ∧ t.diagAddr = s.diagAddr ∧
    t.ip = s.ip ∧ t.flags = s.flags ∧ RegsKept [] s t ∧ MemKeptOutside [] s t

/-- The unrecognized opcode (60_exceptions.md section 1): each of the other opcode bytes halts the core and latches the
opcode and the address it was fetched from; IP is past the one byte and nothing else is written. The cause code 2 and
the latch are the spec's decision D5 (log 4). -/
def Obligations.UnrecognizedOpcodeHalts : Prop :=
  (∀ op : Byte, op ∉ opcodeBytes → RunsAs [op] (.unrecognized op)) ∧
  (∀ (op : Byte) (s : State), ∃ t : State, exec (.unrecognized op) s = .next t ∧
    t.halted = true ∧ t.haltCause = 2#2 ∧ t.diagValid = true ∧ t.diagOpcode = op ∧ t.diagAddr = s.ip - 1#16 ∧
    t.ip = s.ip ∧ t.flags = s.flags ∧ RegsKept [] s t ∧ MemKeptOutside [] s t) ∧
  (∀ s : State, s.halted = false → s.memRead8 s.ip ∉ opcodeBytes →
    ∃ t : State, step s = .next t ∧ t.halted = true ∧ t.haltCause = 2#2 ∧ t.diagValid = true ∧
      t.diagOpcode = s.memRead8 s.ip ∧ t.diagAddr = s.ip ∧ t.ip.toNat = (s.ip.toNat + 1) % 65536 ∧
      t.flags = s.flags ∧ RegsKept [] s t ∧ MemKeptOutside [] s t)

/-- `JNZ label` (30_encoding.md section 4, the spec's decision D18, log 15): the displacement assembled for an address takes
the jump to the label, run there with Z clear. -/
def Obligations.AssembledJnzReachesLabel : Prop :=
  ∀ (label address : Word) (rel : Byte), asmJnz label address = some rel →
    ∀ s : State, s.halted = false → s.zf = false → s.ip = address →
      s.memRead8 address = 0x75#8 → s.memRead8 (address + 1#16) = rel → step s = .next (s.setIp label)

/-! ## Rules about the whole machine -/

/-- R113: every instruction but INC AX, DEC AX, DEC CX and CMP CX leaves all of FLAGS, and so do a step while halted and the
host's pop. -/
def Obligations.FlagsKeptByAllOthers : Prop :=
  (∀ (i : Instr) (s : State), i ≠ .incAx → i ≠ .decAx → i ≠ .decCx → (∀ imm : Word, i ≠ .cmpCxImm16 imm) →
    ∃ t : State, exec i s = .next t ∧ t.flags = s.flags) ∧
  (∀ s : State, s.halted = true → ∃ t : State, step s = .next t ∧ t.flags = s.flags) ∧
  (∀ s : State, (hostPop s).2.flags = s.flags)

/-- 10_state.md section 1 (the table the spec derives), with section 3 for FLAGS and 43_stack.md for memory: a step changes a
piece of state only if it is Running and the bytes at IP are an instruction the spec names as its writer; SI, DI, BP and
the inert flag bits have none. -/
def Obligations.OnlyNamedWritersChangeState : Prop :=
  ∀ s t : State, step s = .next t →
    (t ≠ s → s.halted = false) ∧
    (t.ax ≠ s.ax → s.memRead8 s.ip ∈ [0xB8#8, 0x40#8, 0x48#8, 0x58#8] ∨
      (s.memRead8 s.ip = 0xF7#8 ∧ s.memRead8 (s.ip + 1#16) = 0xE1#8)) ∧
    (t.bx ≠ s.bx → s.memRead8 s.ip = 0xBB#8) ∧
    (t.cx ≠ s.cx → s.memRead8 s.ip ∈ [0xB9#8, 0x49#8]) ∧
    (t.dx ≠ s.dx → s.memRead8 s.ip = 0xF7#8 ∧ s.memRead8 (s.ip + 1#16) = 0xE1#8) ∧
    (t.sp ≠ s.sp → s.memRead8 s.ip ∈ [0x50#8, 0x58#8]) ∧
    t.si = s.si ∧ t.di = s.di ∧ t.bp = s.bp ∧
    (t.flags ≠ s.flags → s.memRead8 s.ip ∈ [0x40#8, 0x48#8, 0x49#8] ∨
      (s.memRead8 s.ip = 0x81#8 ∧ s.memRead8 (s.ip + 1#16) = 0xF9#8)) ∧
    InertFlagsKept s t ∧
    (t.mem ≠ s.mem → s.memRead8 s.ip = 0x50#8)

/-- 10_state.md section 2 (the table the spec derives): IP after a Running step. -/
def Obligations.IpAfterStep : Prop :=
  ∀ s : State, s.halted = false → ∃ t : State, step s = .next t ∧
    t.ip =
      (if s.memRead8 s.ip ∈ [0xB8#8, 0xBB#8, 0xB9#8] then s.ip + 3#16
       else if s.memRead8 s.ip = 0xF7#8 then s.ip + 2#16
       else if s.memRead8 s.ip = 0x81#8 then
         (if s.memRead8 (s.ip + 1#16) = 0xF9#8 then s.ip + 4#16 else s.ip + 2#16)
       else if s.memRead8 s.ip = 0x75#8 then
         (if s.zf = true then s.ip + 2#16 else s.ip + 2#16 + (s.memRead8 (s.ip + 1#16)).signExtend 16)
       else s.ip + 1#16)

/-- 60_exceptions.md section 2: a Running core halts on exactly the steps whose opcode is 0xF4 or outside the map, and
nothing but Reset leads out of Halted (that Reset does is the spec's decision D13, log 13). -/
def Obligations.HaltsOnExactlyTheseOpcodes : Prop :=
  (∀ s : State, s.halted = false → ∃ t : State, step s = .next t ∧
    (t.halted = true ↔ s.memRead8 s.ip = 0xF4#8 ∨ s.memRead8 s.ip ∉ opcodeBytes)) ∧
  (∀ s : State, s.halted = true → ∃ t : State, step s = .next t ∧ t.halted = true) ∧
  (∀ s : State, s.halted = true → (hostPop s).2.halted = true) ∧
  State.reset.halted = false

/-- 60_exceptions.md section 2 and 10_state.md section 4: `halt_cause` and the latch change only in the step that halts a
Running core, so the first halt's record is never overwritten (the record itself is the spec's decision D5, log 4). -/
def Obligations.HaltRecordWrittenOnce : Prop :=
  ∀ s t : State, step s = .next t →
    (t.haltCause ≠ s.haltCause ∨ t.diagValid ≠ s.diagValid ∨ t.diagOpcode ≠ s.diagOpcode ∨ t.diagAddr ≠ s.diagAddr) →
    s.halted = false ∧ t.halted = true

/-- 10_state.md sections 1 and 3 (the tables of readers): BX, DX, SI, DI and BP, every flag bit but Z, and the halt record
are read by no instruction. A step from a state that differs in one of them only leaves everything else as it would. -/
def Obligations.UnreadStateNeverFlows : Prop :=
  (∀ (s : State) (r : Reg) (v : Word), r ∈ [Reg.bx, .dx, .si, .di, .bp] →
    ∃ t u : State, step s = .next t ∧ step (s.setReg r v) = .next u ∧ u.setReg r 0#16 = t.setReg r 0#16) ∧
  (∀ (s : State) (f : Word), f.getLsbD 6 = s.flags.getLsbD 6 →
    ∃ t u : State, step s = .next t ∧ step (s.withFlags f) = .next u ∧ u.zf = t.zf ∧
      u.withFlags 0#16 = t.withFlags 0#16) ∧
  (∀ (s : State) (c : BitVec 2) (v : Bool) (op : Byte) (a : Word),
    ∃ t u : State, step s = .next t ∧ step (s.withHaltRecord c v op a) = .next u ∧
      u.withHaltRecord 0#2 false 0#8 0#16 = t.withHaltRecord 0#2 false 0#8 0#16)

/-! ## Memory, fetch and stack -/

/-- R210, R211: `fetch_u8` returns the byte at IP and advances IP by 1; `fetch_u16` returns two bytes little-endian and
advances IP by 2, both modulo 65536; neither changes anything else. -/
def Obligations.FetchReadsAtIp : Prop :=
  ∀ s : State,
    s.fetchU8.1 = s.memRead8 s.ip ∧
    s.fetchU8.2 = { s with ip := s.fetchU8.2.ip } ∧ s.fetchU8.2.ip.toNat = (s.ip.toNat + 1) % 65536 ∧
    s.fetchU16.1.toNat = (s.memRead8 s.ip).toNat + 256 * (s.memRead8 (s.ip + 1#16)).toNat ∧
    s.fetchU16.2 = { s with ip := s.fetchU16.2.ip } ∧ s.fetchU16.2.ip.toNat = (s.ip.toNat + 2) % 65536

/-- 20_memory.md sections 1 and 2: a 16-bit store puts the low byte at the address and the high byte at the next, changes no
other byte and nothing but memory, and a 16-bit load at the address gives the value back. That the next address wraps
at 0xFFFF is the spec's own inference (D6, log 5), and that any address will do its decision D7 (log 6). -/
def Obligations.WordAccessLittleEndian : Prop :=
  ∀ (s : State) (a v : Word),
    (s.memWrite16 a v).memRead16 a = v ∧
    ((s.memWrite16 a v).memRead8 a).toNat = v.toNat % 256 ∧
    ((s.memWrite16 a v).memRead8 (a + 1#16)).toNat = v.toNat / 256 ∧
    MemKeptOutside [a, a + 1#16] s (s.memWrite16 a v) ∧
    s.memWrite16 a v = { s with mem := (s.memWrite16 a v).mem } ∧
    (s.memRead16 a).toNat = (s.memRead8 a).toNat + 256 * (s.memRead8 (a + 1#16)).toNat

/-- 20_memory.md section 6 (the coherence the spec derives): the bytes PUSH AX stores are what a step with IP there fetches
and runs, at once. -/
def Obligations.PushedBytesAreFetched : Prop :=
  ∀ (s : State) (i : Instr) (rest : List Byte), s.halted = false →
    decode [lowByte s.ax, highByte s.ax] = .ok (i, rest) →
    ∃ t : State, exec .pushAx s = .next t ∧
      step (t.setIp t.sp) = exec i (t.setIp (t.sp + BitVec.ofNat 16 i.length))

/-! ## The host's ports -/

/-- HostPop (20_memory.md section 7): in every state, halted or not, it returns the word at SP and writes SP only. That it is
no step is the spec's decision D11 (log 11). -/
def Obligations.HostPopWritesOnlySp : Prop :=
  ∀ s : State,
    (hostPop s).1.toNat = (s.memRead8 s.sp).toNat + 256 * (s.memRead8 (s.sp + 1#16)).toNat ∧
    (hostPop s).2 = { s with sp := (hostPop s).2.sp } ∧
    (hostPop s).2.sp.toNat = (s.sp.toNat + 2) % 65536

/-- Booting (70_reset_and_hazards.md section 2; 20_memory.md section 7, decision D10, log 10): the program's bytes lie at
address 0 and up, every other byte is 0x00, everything else is at reset, and the memory is canonical. -/
def Obligations.BootPlacesProgram : Prop :=
  ∀ program : List Byte, program.length ≤ 65536 →
    (∀ a : Word, (boot program).memRead8 a = program.getD a.toNat 0x00#8) ∧
    boot program = { State.reset with mem := (boot program).mem } ∧
    (boot program).mem.wf = true

/-- The end of a run (70_reset_and_hazards.md section 3, decisions D12 and D21, log 12): with any cap the driver ends halted
at the first halted state among the first `cap` steps, or capped in the Running state after exactly `cap` of them. -/
def Obligations.DriveEndsAtFirstHalt : Prop :=
  (∀ (cap : Nat) (s t : State), drive cap s = .endsHalted t ↔
    ∃ n : Nat, n ≤ cap ∧ Sys2Proof.core.run n s = .next t ∧ t.halted = true ∧
      ∀ m : Nat, m < n → ∃ u : State, Sys2Proof.core.run m s = .next u ∧ u.halted = false) ∧
  (∀ (cap : Nat) (s t : State), drive cap s = .endsCapped t ↔
    Sys2Proof.core.run cap s = .next t ∧ t.halted = false)

/-- Observation (20_memory.md section 7, decision D9, log 9) shows the whole state: two states with canonical memories that
the host cannot tell apart are the same state. -/
def Obligations.ObservationDeterminesState : Prop :=
  ∀ s t : State, s.mem.wf = true → t.mem.wf = true → (∀ o : Observable, observe s o = observe t o) → s = t
end

