-- ==== Sys2Proof/Laws/Decode.lean ====
section
/-! SUPPORT. What the decoder reads: one equation per opcode, the one case principle over all of them (cite it instead of
unfolding `decodeWindow`), and `decode` in terms of it. -/

namespace Sys2Proof

theorem decodeWindow_movAx (b1 b2 b3 : Byte) : decodeWindow 0xB8#8 b1 b2 b3 = .movAxImm16 (wordOfBytes b1 b2) := rfl
theorem decodeWindow_movBx (b1 b2 b3 : Byte) : decodeWindow 0xBB#8 b1 b2 b3 = .movBxImm16 (wordOfBytes b1 b2) := rfl
theorem decodeWindow_movCx (b1 b2 b3 : Byte) : decodeWindow 0xB9#8 b1 b2 b3 = .movCxImm16 (wordOfBytes b1 b2) := rfl
theorem decodeWindow_incAx (b1 b2 b3 : Byte) : decodeWindow 0x40#8 b1 b2 b3 = .incAx := rfl
theorem decodeWindow_decAx (b1 b2 b3 : Byte) : decodeWindow 0x48#8 b1 b2 b3 = .decAx := rfl
theorem decodeWindow_decCx (b1 b2 b3 : Byte) : decodeWindow 0x49#8 b1 b2 b3 = .decCx := rfl
theorem decodeWindow_pushAx (b1 b2 b3 : Byte) : decodeWindow 0x50#8 b1 b2 b3 = .pushAx := rfl
theorem decodeWindow_popAx (b1 b2 b3 : Byte) : decodeWindow 0x58#8 b1 b2 b3 = .popAx := rfl
theorem decodeWindow_mulCx (b2 b3 : Byte) : decodeWindow 0xF7#8 0xE1#8 b2 b3 = .mulCx := rfl
theorem decodeWindow_cmpCx (b2 b3 : Byte) :
    decodeWindow 0x81#8 0xF9#8 b2 b3 = .cmpCxImm16 (wordOfBytes b2 b3) := rfl
theorem decodeWindow_jnz (b1 b2 b3 : Byte) : decodeWindow 0x75#8 b1 b2 b3 = .jnzRel8 b1 := rfl
theorem decodeWindow_hlt (b1 b2 b3 : Byte) : decodeWindow 0xF4#8 b1 b2 b3 = .hlt := rfl

theorem decodeWindow_f7Nop {b1 : Byte} (b2 b3 : Byte) (h : b1 ≠ 0xE1#8) :
    decodeWindow 0xF7#8 b1 b2 b3 = .f7Nop b1 := by
  show (if b1 = selMulCx then Instr.mulCx else Instr.f7Nop b1) = _
  rw [if_neg h]

theorem decodeWindow_op81Nop {b1 : Byte} (b2 b3 : Byte) (h : b1 ≠ 0xF9#8) :
    decodeWindow 0x81#8 b1 b2 b3 = .op81Nop b1 := by
  show (if b1 = selCmpCx then Instr.cmpCxImm16 _ else Instr.op81Nop b1) = _
  rw [if_neg h]

theorem not_mem_opcodeBytes {b : Byte} : b ∉ opcodeBytes ↔
    b ≠ 0xB8#8 ∧ b ≠ 0xBB#8 ∧ b ≠ 0xB9#8 ∧ b ≠ 0x40#8 ∧ b ≠ 0x48#8 ∧ b ≠ 0x49#8 ∧ b ≠ 0x50#8 ∧ b ≠ 0x58#8 ∧
      b ≠ 0xF7#8 ∧ b ≠ 0x81#8 ∧ b ≠ 0x75#8 ∧ b ≠ 0xF4#8 := by
  simp only [opcodeBytes, List.mem_cons, List.not_mem_nil, or_false, not_or, ne_eq]

theorem decodeWindow_unrecognized {b0 : Byte} (b1 b2 b3 : Byte) (h : b0 ∉ opcodeBytes) :
    decodeWindow b0 b1 b2 b3 = .unrecognized b0 := by
  obtain ⟨h1, h2, h3, h4, h5, h6, h7, h8, h9, h10, h11, h12⟩ := not_mem_opcodeBytes.mp h
  rw [decodeWindow, if_neg h1, if_neg h2, if_neg h3, if_neg h4, if_neg h5, if_neg h6, if_neg h7, if_neg h8, if_neg h9,
    if_neg h10, if_neg h11, if_neg h12]

/-- The case principle of the opcode map (30_encoding.md R340): to show something of every window and the instruction it
decodes to, show it row by row. -/
theorem decodeWindow_cases {motive : Byte → Byte → Byte → Byte → Instr → Prop}
    (movAx : ∀ b1 b2 b3, motive 0xB8#8 b1 b2 b3 (.movAxImm16 (wordOfBytes b1 b2)))
    (movBx : ∀ b1 b2 b3, motive 0xBB#8 b1 b2 b3 (.movBxImm16 (wordOfBytes b1 b2)))
    (movCx : ∀ b1 b2 b3, motive 0xB9#8 b1 b2 b3 (.movCxImm16 (wordOfBytes b1 b2)))
    (incAx : ∀ b1 b2 b3, motive 0x40#8 b1 b2 b3 .incAx)
    (decAx : ∀ b1 b2 b3, motive 0x48#8 b1 b2 b3 .decAx)
    (decCx : ∀ b1 b2 b3, motive 0x49#8 b1 b2 b3 .decCx)
    (pushAx : ∀ b1 b2 b3, motive 0x50#8 b1 b2 b3 .pushAx)
    (popAx : ∀ b1 b2 b3, motive 0x58#8 b1 b2 b3 .popAx)
    (mulCx : ∀ b2 b3, motive 0xF7#8 0xE1#8 b2 b3 .mulCx)
    (f7Nop : ∀ b1 b2 b3, b1 ≠ 0xE1#8 → motive 0xF7#8 b1 b2 b3 (.f7Nop b1))
    (cmpCx : ∀ b2 b3, motive 0x81#8 0xF9#8 b2 b3 (.cmpCxImm16 (wordOfBytes b2 b3)))
    (op81Nop : ∀ b1 b2 b3, b1 ≠ 0xF9#8 → motive 0x81#8 b1 b2 b3 (.op81Nop b1))
    (jnz : ∀ b1 b2 b3, motive 0x75#8 b1 b2 b3 (.jnzRel8 b1))
    (hlt : ∀ b1 b2 b3, motive 0xF4#8 b1 b2 b3 .hlt)
    (unrecognized : ∀ b0 b1 b2 b3, b0 ∉ opcodeBytes → motive b0 b1 b2 b3 (.unrecognized b0))
    (b0 b1 b2 b3 : Byte) : motive b0 b1 b2 b3 (decodeWindow b0 b1 b2 b3) := by
  by_cases h : b0 ∈ opcodeBytes
  · simp only [opcodeBytes, List.mem_cons, List.not_mem_nil, or_false] at h
    obtain rfl | rfl | rfl | rfl | rfl | rfl | rfl | rfl | rfl | rfl | rfl | rfl := h
    · exact movAx b1 b2 b3
    · exact movBx b1 b2 b3
    · exact movCx b1 b2 b3
    · exact incAx b1 b2 b3
    · exact decAx b1 b2 b3
    · exact decCx b1 b2 b3
    · exact pushAx b1 b2 b3
    · exact popAx b1 b2 b3
    · by_cases hs : b1 = 0xE1#8
      · subst hs; exact mulCx b2 b3
      · rw [decodeWindow_f7Nop b2 b3 hs]; exact f7Nop b1 b2 b3 hs
    · by_cases hs : b1 = 0xF9#8
      · subst hs; exact cmpCx b2 b3
      · rw [decodeWindow_op81Nop b2 b3 hs]; exact op81Nop b1 b2 b3 hs
    · exact jnz b1 b2 b3
    · exact hlt b1 b2 b3
  · rw [decodeWindow_unrecognized b1 b2 b3 h]; exact unrecognized b0 b1 b2 b3 h

/-- `decode` of a string that is long enough for its first instruction. -/
theorem decode_cons_ok {b0 : Byte} {rest : List Byte}
    (h : (decodeWindow b0 (rest.getD 0 0#8) (rest.getD 1 0#8) (rest.getD 2 0#8)).length ≤ rest.length + 1) :
    decode (b0 :: rest) =
      .ok (decodeWindow b0 (rest.getD 0 0#8) (rest.getD 1 0#8) (rest.getD 2 0#8),
        (b0 :: rest).drop (decodeWindow b0 (rest.getD 0 0#8) (rest.getD 1 0#8) (rest.getD 2 0#8)).length) := by
  simp only [decode]
  rw [if_pos h]

/-- What `decode` says when it reads an instruction: the window it read, and that the string was long enough. -/
theorem decode_ok_cases {bytes rest : List Byte} {i : Instr} (h : decode bytes = .ok (i, rest)) :
    ∃ b0 tail, bytes = b0 :: tail ∧ i = decodeWindow b0 (tail.getD 0 0#8) (tail.getD 1 0#8) (tail.getD 2 0#8) ∧
      i.length ≤ tail.length + 1 ∧ rest = (b0 :: tail).drop i.length := by
  cases bytes with
  | nil => cases h
  | cons b0 tail =>
    simp only [decode] at h
    split at h
    · next hle =>
      simp only [Except.ok.injEq, Prod.mk.injEq] at h
      obtain ⟨rfl, rfl⟩ := h
      exact ⟨b0, tail, rfl, rfl, hle, rfl⟩
    · cases h

end Sys2Proof
end

