-- ==== Sys2Proof/Laws/State.lean ====
section
/-! SUPPORT. One lemma per field per update of State, each true by unfolding, so that no later proof unfolds a record update. -/

namespace Sys2Proof.Machine


/-! ### `State.setIp` -/

@[simp] theorem setIp_ax (s : State) (v : Word) : (s.setIp v).ax = s.ax := rfl
@[simp] theorem setIp_bx (s : State) (v : Word) : (s.setIp v).bx = s.bx := rfl
@[simp] theorem setIp_cx (s : State) (v : Word) : (s.setIp v).cx = s.cx := rfl
@[simp] theorem setIp_dx (s : State) (v : Word) : (s.setIp v).dx = s.dx := rfl
@[simp] theorem setIp_si (s : State) (v : Word) : (s.setIp v).si = s.si := rfl
@[simp] theorem setIp_di (s : State) (v : Word) : (s.setIp v).di = s.di := rfl
@[simp] theorem setIp_sp (s : State) (v : Word) : (s.setIp v).sp = s.sp := rfl
@[simp] theorem setIp_bp (s : State) (v : Word) : (s.setIp v).bp = s.bp := rfl
@[simp] theorem setIp_ip (s : State) (v : Word) : (s.setIp v).ip = v := rfl
@[simp] theorem setIp_flags (s : State) (v : Word) : (s.setIp v).flags = s.flags := rfl
@[simp] theorem setIp_halted (s : State) (v : Word) : (s.setIp v).halted = s.halted := rfl
@[simp] theorem setIp_haltCause (s : State) (v : Word) : (s.setIp v).haltCause = s.haltCause := rfl
@[simp] theorem setIp_diagValid (s : State) (v : Word) : (s.setIp v).diagValid = s.diagValid := rfl
@[simp] theorem setIp_diagOpcode (s : State) (v : Word) : (s.setIp v).diagOpcode = s.diagOpcode := rfl
@[simp] theorem setIp_diagAddr (s : State) (v : Word) : (s.setIp v).diagAddr = s.diagAddr := rfl
@[simp] theorem setIp_mem (s : State) (v : Word) : (s.setIp v).mem = s.mem := rfl

/-! ### `State.setSz` -/

@[simp] theorem setSz_ax (s : State) (v : Word) : (s.setSz v).ax = s.ax := rfl
@[simp] theorem setSz_bx (s : State) (v : Word) : (s.setSz v).bx = s.bx := rfl
@[simp] theorem setSz_cx (s : State) (v : Word) : (s.setSz v).cx = s.cx := rfl
@[simp] theorem setSz_dx (s : State) (v : Word) : (s.setSz v).dx = s.dx := rfl
@[simp] theorem setSz_si (s : State) (v : Word) : (s.setSz v).si = s.si := rfl
@[simp] theorem setSz_di (s : State) (v : Word) : (s.setSz v).di = s.di := rfl
@[simp] theorem setSz_sp (s : State) (v : Word) : (s.setSz v).sp = s.sp := rfl
@[simp] theorem setSz_bp (s : State) (v : Word) : (s.setSz v).bp = s.bp := rfl
@[simp] theorem setSz_ip (s : State) (v : Word) : (s.setSz v).ip = s.ip := rfl
@[simp] theorem setSz_flags (s : State) (v : Word) : (s.setSz v).flags = szWord s.flags v := rfl
@[simp] theorem setSz_halted (s : State) (v : Word) : (s.setSz v).halted = s.halted := rfl
@[simp] theorem setSz_haltCause (s : State) (v : Word) : (s.setSz v).haltCause = s.haltCause := rfl
@[simp] theorem setSz_diagValid (s : State) (v : Word) : (s.setSz v).diagValid = s.diagValid := rfl
@[simp] theorem setSz_diagOpcode (s : State) (v : Word) : (s.setSz v).diagOpcode = s.diagOpcode := rfl
@[simp] theorem setSz_diagAddr (s : State) (v : Word) : (s.setSz v).diagAddr = s.diagAddr := rfl
@[simp] theorem setSz_mem (s : State) (v : Word) : (s.setSz v).mem = s.mem := rfl

/-! ### `State.memWrite8` -/

@[simp] theorem memWrite8_ax (s : State) (a : Word) (b : Byte) : (s.memWrite8 a b).ax = s.ax := rfl
@[simp] theorem memWrite8_bx (s : State) (a : Word) (b : Byte) : (s.memWrite8 a b).bx = s.bx := rfl
@[simp] theorem memWrite8_cx (s : State) (a : Word) (b : Byte) : (s.memWrite8 a b).cx = s.cx := rfl
@[simp] theorem memWrite8_dx (s : State) (a : Word) (b : Byte) : (s.memWrite8 a b).dx = s.dx := rfl
@[simp] theorem memWrite8_si (s : State) (a : Word) (b : Byte) : (s.memWrite8 a b).si = s.si := rfl
@[simp] theorem memWrite8_di (s : State) (a : Word) (b : Byte) : (s.memWrite8 a b).di = s.di := rfl
@[simp] theorem memWrite8_sp (s : State) (a : Word) (b : Byte) : (s.memWrite8 a b).sp = s.sp := rfl
@[simp] theorem memWrite8_bp (s : State) (a : Word) (b : Byte) : (s.memWrite8 a b).bp = s.bp := rfl
@[simp] theorem memWrite8_ip (s : State) (a : Word) (b : Byte) : (s.memWrite8 a b).ip = s.ip := rfl
@[simp] theorem memWrite8_flags (s : State) (a : Word) (b : Byte) : (s.memWrite8 a b).flags = s.flags := rfl
@[simp] theorem memWrite8_halted (s : State) (a : Word) (b : Byte) : (s.memWrite8 a b).halted = s.halted := rfl
@[simp] theorem memWrite8_haltCause (s : State) (a : Word) (b : Byte) : (s.memWrite8 a b).haltCause = s.haltCause := rfl
@[simp] theorem memWrite8_diagValid (s : State) (a : Word) (b : Byte) : (s.memWrite8 a b).diagValid = s.diagValid := rfl
@[simp] theorem memWrite8_diagOpcode (s : State) (a : Word) (b : Byte) : (s.memWrite8 a b).diagOpcode = s.diagOpcode := rfl
@[simp] theorem memWrite8_diagAddr (s : State) (a : Word) (b : Byte) : (s.memWrite8 a b).diagAddr = s.diagAddr := rfl
@[simp] theorem memWrite8_mem (s : State) (a : Word) (b : Byte) : (s.memWrite8 a b).mem = s.mem.write a.toNat b := rfl

/-! ### `State.halt` -/

@[simp] theorem halt_ax (s : State) : (s.halt).ax = s.ax := rfl
@[simp] theorem halt_bx (s : State) : (s.halt).bx = s.bx := rfl
@[simp] theorem halt_cx (s : State) : (s.halt).cx = s.cx := rfl
@[simp] theorem halt_dx (s : State) : (s.halt).dx = s.dx := rfl
@[simp] theorem halt_si (s : State) : (s.halt).si = s.si := rfl
@[simp] theorem halt_di (s : State) : (s.halt).di = s.di := rfl
@[simp] theorem halt_sp (s : State) : (s.halt).sp = s.sp := rfl
@[simp] theorem halt_bp (s : State) : (s.halt).bp = s.bp := rfl
@[simp] theorem halt_ip (s : State) : (s.halt).ip = s.ip := rfl
@[simp] theorem halt_flags (s : State) : (s.halt).flags = s.flags := rfl
@[simp] theorem halt_halted (s : State) : (s.halt).halted = true := rfl
@[simp] theorem halt_haltCause (s : State) : (s.halt).haltCause = haltCauseHlt := rfl
@[simp] theorem halt_diagValid (s : State) : (s.halt).diagValid = s.diagValid := rfl
@[simp] theorem halt_diagOpcode (s : State) : (s.halt).diagOpcode = s.diagOpcode := rfl
@[simp] theorem halt_diagAddr (s : State) : (s.halt).diagAddr = s.diagAddr := rfl
@[simp] theorem halt_mem (s : State) : (s.halt).mem = s.mem := rfl

/-! ### `State.raiseUnrecognizedOpcode` -/

@[simp] theorem raiseUnrecognizedOpcode_ax (s : State) (op : Byte) (a : Word) : (s.raiseUnrecognizedOpcode op a).ax = s.ax := rfl
@[simp] theorem raiseUnrecognizedOpcode_bx (s : State) (op : Byte) (a : Word) : (s.raiseUnrecognizedOpcode op a).bx = s.bx := rfl
@[simp] theorem raiseUnrecognizedOpcode_cx (s : State) (op : Byte) (a : Word) : (s.raiseUnrecognizedOpcode op a).cx = s.cx := rfl
@[simp] theorem raiseUnrecognizedOpcode_dx (s : State) (op : Byte) (a : Word) : (s.raiseUnrecognizedOpcode op a).dx = s.dx := rfl
@[simp] theorem raiseUnrecognizedOpcode_si (s : State) (op : Byte) (a : Word) : (s.raiseUnrecognizedOpcode op a).si = s.si := rfl
@[simp] theorem raiseUnrecognizedOpcode_di (s : State) (op : Byte) (a : Word) : (s.raiseUnrecognizedOpcode op a).di = s.di := rfl
@[simp] theorem raiseUnrecognizedOpcode_sp (s : State) (op : Byte) (a : Word) : (s.raiseUnrecognizedOpcode op a).sp = s.sp := rfl
@[simp] theorem raiseUnrecognizedOpcode_bp (s : State) (op : Byte) (a : Word) : (s.raiseUnrecognizedOpcode op a).bp = s.bp := rfl
@[simp] theorem raiseUnrecognizedOpcode_ip (s : State) (op : Byte) (a : Word) : (s.raiseUnrecognizedOpcode op a).ip = s.ip := rfl
@[simp] theorem raiseUnrecognizedOpcode_flags (s : State) (op : Byte) (a : Word) : (s.raiseUnrecognizedOpcode op a).flags = s.flags := rfl
@[simp] theorem raiseUnrecognizedOpcode_halted (s : State) (op : Byte) (a : Word) : (s.raiseUnrecognizedOpcode op a).halted = true := rfl
@[simp] theorem raiseUnrecognizedOpcode_haltCause (s : State) (op : Byte) (a : Word) : (s.raiseUnrecognizedOpcode op a).haltCause = haltCauseUnrecognized := rfl
@[simp] theorem raiseUnrecognizedOpcode_diagValid (s : State) (op : Byte) (a : Word) : (s.raiseUnrecognizedOpcode op a).diagValid = true := rfl
@[simp] theorem raiseUnrecognizedOpcode_diagOpcode (s : State) (op : Byte) (a : Word) : (s.raiseUnrecognizedOpcode op a).diagOpcode = op := rfl
@[simp] theorem raiseUnrecognizedOpcode_diagAddr (s : State) (op : Byte) (a : Word) : (s.raiseUnrecognizedOpcode op a).diagAddr = a := rfl
@[simp] theorem raiseUnrecognizedOpcode_mem (s : State) (op : Byte) (a : Word) : (s.raiseUnrecognizedOpcode op a).mem = s.mem := rfl

/-! ### `State.setReg`: the fields that are no general/pointer register -/

@[simp] theorem setReg_ip (s : State) (r : Reg) (v : Word) : (s.setReg r v).ip = s.ip := by cases r <;> rfl
@[simp] theorem setReg_flags (s : State) (r : Reg) (v : Word) : (s.setReg r v).flags = s.flags := by cases r <;> rfl
@[simp] theorem setReg_halted (s : State) (r : Reg) (v : Word) : (s.setReg r v).halted = s.halted := by cases r <;> rfl
@[simp] theorem setReg_haltCause (s : State) (r : Reg) (v : Word) : (s.setReg r v).haltCause = s.haltCause := by cases r <;> rfl
@[simp] theorem setReg_diagValid (s : State) (r : Reg) (v : Word) : (s.setReg r v).diagValid = s.diagValid := by cases r <;> rfl
@[simp] theorem setReg_diagOpcode (s : State) (r : Reg) (v : Word) : (s.setReg r v).diagOpcode = s.diagOpcode := by cases r <;> rfl
@[simp] theorem setReg_diagAddr (s : State) (r : Reg) (v : Word) : (s.setReg r v).diagAddr = s.diagAddr := by cases r <;> rfl
@[simp] theorem setReg_mem (s : State) (r : Reg) (v : Word) : (s.setReg r v).mem = s.mem := by cases r <;> rfl

/-! ### `State.setReg`: each register -/

@[simp] theorem setReg_ax_ax (s : State) (v : Word) : (s.setReg .ax v).ax = v := rfl
@[simp] theorem setReg_ax_bx (s : State) (v : Word) : (s.setReg .ax v).bx = s.bx := rfl
@[simp] theorem setReg_ax_cx (s : State) (v : Word) : (s.setReg .ax v).cx = s.cx := rfl
@[simp] theorem setReg_ax_dx (s : State) (v : Word) : (s.setReg .ax v).dx = s.dx := rfl
@[simp] theorem setReg_ax_si (s : State) (v : Word) : (s.setReg .ax v).si = s.si := rfl
@[simp] theorem setReg_ax_di (s : State) (v : Word) : (s.setReg .ax v).di = s.di := rfl
@[simp] theorem setReg_ax_sp (s : State) (v : Word) : (s.setReg .ax v).sp = s.sp := rfl
@[simp] theorem setReg_ax_bp (s : State) (v : Word) : (s.setReg .ax v).bp = s.bp := rfl
@[simp] theorem setReg_bx_ax (s : State) (v : Word) : (s.setReg .bx v).ax = s.ax := rfl
@[simp] theorem setReg_bx_bx (s : State) (v : Word) : (s.setReg .bx v).bx = v := rfl
@[simp] theorem setReg_bx_cx (s : State) (v : Word) : (s.setReg .bx v).cx = s.cx := rfl
@[simp] theorem setReg_bx_dx (s : State) (v : Word) : (s.setReg .bx v).dx = s.dx := rfl
@[simp] theorem setReg_bx_si (s : State) (v : Word) : (s.setReg .bx v).si = s.si := rfl
@[simp] theorem setReg_bx_di (s : State) (v : Word) : (s.setReg .bx v).di = s.di := rfl
@[simp] theorem setReg_bx_sp (s : State) (v : Word) : (s.setReg .bx v).sp = s.sp := rfl
@[simp] theorem setReg_bx_bp (s : State) (v : Word) : (s.setReg .bx v).bp = s.bp := rfl
@[simp] theorem setReg_cx_ax (s : State) (v : Word) : (s.setReg .cx v).ax = s.ax := rfl
@[simp] theorem setReg_cx_bx (s : State) (v : Word) : (s.setReg .cx v).bx = s.bx := rfl
@[simp] theorem setReg_cx_cx (s : State) (v : Word) : (s.setReg .cx v).cx = v := rfl
@[simp] theorem setReg_cx_dx (s : State) (v : Word) : (s.setReg .cx v).dx = s.dx := rfl
@[simp] theorem setReg_cx_si (s : State) (v : Word) : (s.setReg .cx v).si = s.si := rfl
@[simp] theorem setReg_cx_di (s : State) (v : Word) : (s.setReg .cx v).di = s.di := rfl
@[simp] theorem setReg_cx_sp (s : State) (v : Word) : (s.setReg .cx v).sp = s.sp := rfl
@[simp] theorem setReg_cx_bp (s : State) (v : Word) : (s.setReg .cx v).bp = s.bp := rfl
@[simp] theorem setReg_dx_ax (s : State) (v : Word) : (s.setReg .dx v).ax = s.ax := rfl
@[simp] theorem setReg_dx_bx (s : State) (v : Word) : (s.setReg .dx v).bx = s.bx := rfl
@[simp] theorem setReg_dx_cx (s : State) (v : Word) : (s.setReg .dx v).cx = s.cx := rfl
@[simp] theorem setReg_dx_dx (s : State) (v : Word) : (s.setReg .dx v).dx = v := rfl
@[simp] theorem setReg_dx_si (s : State) (v : Word) : (s.setReg .dx v).si = s.si := rfl
@[simp] theorem setReg_dx_di (s : State) (v : Word) : (s.setReg .dx v).di = s.di := rfl
@[simp] theorem setReg_dx_sp (s : State) (v : Word) : (s.setReg .dx v).sp = s.sp := rfl
@[simp] theorem setReg_dx_bp (s : State) (v : Word) : (s.setReg .dx v).bp = s.bp := rfl
@[simp] theorem setReg_si_ax (s : State) (v : Word) : (s.setReg .si v).ax = s.ax := rfl
@[simp] theorem setReg_si_bx (s : State) (v : Word) : (s.setReg .si v).bx = s.bx := rfl
@[simp] theorem setReg_si_cx (s : State) (v : Word) : (s.setReg .si v).cx = s.cx := rfl
@[simp] theorem setReg_si_dx (s : State) (v : Word) : (s.setReg .si v).dx = s.dx := rfl
@[simp] theorem setReg_si_si (s : State) (v : Word) : (s.setReg .si v).si = v := rfl
@[simp] theorem setReg_si_di (s : State) (v : Word) : (s.setReg .si v).di = s.di := rfl
@[simp] theorem setReg_si_sp (s : State) (v : Word) : (s.setReg .si v).sp = s.sp := rfl
@[simp] theorem setReg_si_bp (s : State) (v : Word) : (s.setReg .si v).bp = s.bp := rfl
@[simp] theorem setReg_di_ax (s : State) (v : Word) : (s.setReg .di v).ax = s.ax := rfl
@[simp] theorem setReg_di_bx (s : State) (v : Word) : (s.setReg .di v).bx = s.bx := rfl
@[simp] theorem setReg_di_cx (s : State) (v : Word) : (s.setReg .di v).cx = s.cx := rfl
@[simp] theorem setReg_di_dx (s : State) (v : Word) : (s.setReg .di v).dx = s.dx := rfl
@[simp] theorem setReg_di_si (s : State) (v : Word) : (s.setReg .di v).si = s.si := rfl
@[simp] theorem setReg_di_di (s : State) (v : Word) : (s.setReg .di v).di = v := rfl
@[simp] theorem setReg_di_sp (s : State) (v : Word) : (s.setReg .di v).sp = s.sp := rfl
@[simp] theorem setReg_di_bp (s : State) (v : Word) : (s.setReg .di v).bp = s.bp := rfl
@[simp] theorem setReg_sp_ax (s : State) (v : Word) : (s.setReg .sp v).ax = s.ax := rfl
@[simp] theorem setReg_sp_bx (s : State) (v : Word) : (s.setReg .sp v).bx = s.bx := rfl
@[simp] theorem setReg_sp_cx (s : State) (v : Word) : (s.setReg .sp v).cx = s.cx := rfl
@[simp] theorem setReg_sp_dx (s : State) (v : Word) : (s.setReg .sp v).dx = s.dx := rfl
@[simp] theorem setReg_sp_si (s : State) (v : Word) : (s.setReg .sp v).si = s.si := rfl
@[simp] theorem setReg_sp_di (s : State) (v : Word) : (s.setReg .sp v).di = s.di := rfl
@[simp] theorem setReg_sp_sp (s : State) (v : Word) : (s.setReg .sp v).sp = v := rfl
@[simp] theorem setReg_sp_bp (s : State) (v : Word) : (s.setReg .sp v).bp = s.bp := rfl
@[simp] theorem setReg_bp_ax (s : State) (v : Word) : (s.setReg .bp v).ax = s.ax := rfl
@[simp] theorem setReg_bp_bx (s : State) (v : Word) : (s.setReg .bp v).bx = s.bx := rfl
@[simp] theorem setReg_bp_cx (s : State) (v : Word) : (s.setReg .bp v).cx = s.cx := rfl
@[simp] theorem setReg_bp_dx (s : State) (v : Word) : (s.setReg .bp v).dx = s.dx := rfl
@[simp] theorem setReg_bp_si (s : State) (v : Word) : (s.setReg .bp v).si = s.si := rfl
@[simp] theorem setReg_bp_di (s : State) (v : Word) : (s.setReg .bp v).di = s.di := rfl
@[simp] theorem setReg_bp_sp (s : State) (v : Word) : (s.setReg .bp v).sp = s.sp := rfl
@[simp] theorem setReg_bp_bp (s : State) (v : Word) : (s.setReg .bp v).bp = v := rfl

/-! ### `State.getReg` -/

@[simp] theorem getReg_ax (s : State) : s.getReg .ax = s.ax := rfl
@[simp] theorem getReg_bx (s : State) : s.getReg .bx = s.bx := rfl
@[simp] theorem getReg_cx (s : State) : s.getReg .cx = s.cx := rfl
@[simp] theorem getReg_dx (s : State) : s.getReg .dx = s.dx := rfl
@[simp] theorem getReg_si (s : State) : s.getReg .si = s.si := rfl
@[simp] theorem getReg_di (s : State) : s.getReg .di = s.di := rfl
@[simp] theorem getReg_sp (s : State) : s.getReg .sp = s.sp := rfl
@[simp] theorem getReg_bp (s : State) : s.getReg .bp = s.bp := rfl

theorem getReg_setReg (s : State) (r q : Reg) (v : Word) :
    (s.setReg r v).getReg q = if q = r then v else s.getReg q := by
  cases r <;> cases q <;> rfl

@[simp] theorem getReg_setReg_self (s : State) (r : Reg) (v : Word) : (s.setReg r v).getReg r = v := by
  cases r <;> rfl

theorem getReg_setReg_other (s : State) {r q : Reg} (v : Word) (h : q ≠ r) :
    (s.setReg r v).getReg q = s.getReg q := by
  rw [getReg_setReg, if_neg h]

@[simp] theorem getReg_setIp (s : State) (v : Word) (r : Reg) : (s.setIp v).getReg r = s.getReg r := by cases r <;> rfl
@[simp] theorem getReg_setSz (s : State) (v : Word) (r : Reg) : (s.setSz v).getReg r = s.getReg r := by cases r <;> rfl
@[simp] theorem getReg_memWrite8 (s : State) (a : Word) (b : Byte) (r : Reg) : (s.memWrite8 a b).getReg r = s.getReg r := by cases r <;> rfl
@[simp] theorem getReg_halt (s : State) (r : Reg) : (s.halt).getReg r = s.getReg r := by cases r <;> rfl
@[simp] theorem getReg_raiseUnrecognizedOpcode (s : State) (op : Byte) (a : Word) (r : Reg) : (s.raiseUnrecognizedOpcode op a).getReg r = s.getReg r := by cases r <;> rfl

/-! ### Reads of memory depend on the memory field alone -/

theorem memRead8_of_mem_eq {s t : State} (h : t.mem = s.mem) (a : Word) : t.memRead8 a = s.memRead8 a := by
  rw [State.memRead8, State.memRead8, h]

@[simp] theorem memRead8_setIp (s : State) (v : Word) (a : Word) : (s.setIp v).memRead8 a = s.memRead8 a :=
  memRead8_of_mem_eq (by simp) a
@[simp] theorem memRead8_setSz (s : State) (v : Word) (a : Word) : (s.setSz v).memRead8 a = s.memRead8 a :=
  memRead8_of_mem_eq (by simp) a
@[simp] theorem memRead8_halt (s : State) (a : Word) : (s.halt).memRead8 a = s.memRead8 a :=
  memRead8_of_mem_eq (by simp) a
@[simp] theorem memRead8_raiseUnrecognizedOpcode (s : State) (op : Byte) (x : Word) (a : Word) : (s.raiseUnrecognizedOpcode op x).memRead8 a = s.memRead8 a :=
  memRead8_of_mem_eq (by simp) a
@[simp] theorem memRead8_setReg (s : State) (r : Reg) (v : Word) (a : Word) : (s.setReg r v).memRead8 a = s.memRead8 a :=
  memRead8_of_mem_eq (by simp) a

end Sys2Proof.Machine
end

