-- ==== Sys2Proof/Laws/Flags.lean ====
section
/-! SUPPORT. Everything `set_sz` does to the flag word, bit by bit (42_alu.md R420), and what reading a flag depends on. -/

namespace Sys2Proof.Machine

theorem zf_eq (s : State) : s.zf = s.flags.getLsbD 6 := rfl

theorem sf_eq (s : State) : s.sf = s.flags.getLsbD 7 := rfl

/-- Every bit of the flag word after `set_sz`. -/
theorem getLsbD_szWord (f v : Word) (k : Nat) :
    (szWord f v).getLsbD k =
      if k = 6 then decide (v = 0#16) else if k = 7 then v.getLsbD 15 else f.getLsbD k := by
  have masked : ∀ j : Fin 16, j.val ≠ 6 → j.val ≠ 7 →
      (0xFF3F#16).getLsbD j.val = true ∧ (1#16 <<< 7).getLsbD j.val = false ∧ (1#16 <<< 6).getLsbD j.val = false := by
    decide
  by_cases hk : k < 16
  · by_cases h6 : k = 6
    · subst h6
      by_cases hv : v = 0#16 <;> by_cases hs : v.getLsbD 15 = true <;> simp [szWord, hv, hs]
    · by_cases h7 : k = 7
      · subst h7
        by_cases hv : v = 0#16
        · subst hv; simp [szWord]
        · by_cases hs : v.getLsbD 15 = true
          · simp only [szWord, hv, hs, if_true, if_false]; simp
          · simp only [szWord, hv, hs, if_false]; simp
      · obtain ⟨hm, hs7, hs6⟩ := masked ⟨k, hk⟩ h6 h7
        simp only [szWord, BitVec.getLsbD_or, BitVec.getLsbD_and, hm, Bool.and_true, h6, h7, if_false]
        by_cases hv : v = 0x0000#16 <;> by_cases hs : v.getLsbD 15 = true <;> simp_all
  · rw [BitVec.getLsbD_of_ge _ k (by omega), BitVec.getLsbD_of_ge f k (by omega)]
    simp [show k ≠ 6 by omega, show k ≠ 7 by omega]

@[simp] theorem zf_setSz (s : State) (v : Word) : (s.setSz v).zf = decide (v = 0#16) := by
  rw [zf_eq, setSz_flags, getLsbD_szWord, if_pos rfl]

@[simp] theorem sf_setSz (s : State) (v : Word) : (s.setSz v).sf = v.getLsbD 15 := by
  rw [sf_eq, setSz_flags, getLsbD_szWord, if_neg (by decide), if_pos rfl]

/-- Bit 15 of a word is its size (R420: "v ≥ 0x8000"). -/
theorem getLsbD_15_iff (v : Word) : v.getLsbD 15 = true ↔ 0x8000 ≤ v.toNat := by
  have := v.isLt
  rw [BitVec.getLsbD, Nat.testBit_eq_decide_div_mod_eq, decide_eq_true_iff]
  omega

@[simp] theorem zf_setReg (s : State) (r : Reg) (v : Word) : (s.setReg r v).zf = s.zf := by simp [zf_eq]
@[simp] theorem sf_setReg (s : State) (r : Reg) (v : Word) : (s.setReg r v).sf = s.sf := by simp [sf_eq]
@[simp] theorem zf_setIp (s : State) (v : Word) : (s.setIp v).zf = s.zf := rfl
@[simp] theorem sf_setIp (s : State) (v : Word) : (s.setIp v).sf = s.sf := rfl
@[simp] theorem zf_memWrite8 (s : State) (a : Word) (b : Byte) : (s.memWrite8 a b).zf = s.zf := rfl
@[simp] theorem sf_memWrite8 (s : State) (a : Word) (b : Byte) : (s.memWrite8 a b).sf = s.sf := rfl
@[simp] theorem zf_halt (s : State) : s.halt.zf = s.zf := rfl
@[simp] theorem sf_halt (s : State) : s.halt.sf = s.sf := rfl
@[simp] theorem zf_raiseUnrecognizedOpcode (s : State) (op : Byte) (a : Word) :
    (s.raiseUnrecognizedOpcode op a).zf = s.zf := rfl
@[simp] theorem sf_raiseUnrecognizedOpcode (s : State) (op : Byte) (a : Word) :
    (s.raiseUnrecognizedOpcode op a).sf = s.sf := rfl

end Sys2Proof.Machine
end

