-- ==== Sys2Proof/Laws/Memory.lean ====
section
/-! SUPPORT. The memory list: a read after a write, for every list, and the canonical form, which every write keeps. -/

namespace Sys2Proof.Machine

@[simp] theorem Memory.read_nil (a : Nat) : Memory.read [] a = Config.memReset := rfl

theorem Memory.read_cons (k : Nat) (c : Byte) (m : Memory) (a : Nat) :
    Memory.read ((k, c) :: m) a = if k = a then c else m.read a := rfl

theorem Memory.read_erase (m : Memory) (a x : Nat) :
    (m.erase a).read x = if x = a then Config.memReset else m.read x := by
  induction m with
  | nil => simp [Memory.erase]
  | cons cell m ih =>
    obtain ⟨k, c⟩ := cell
    simp only [Memory.erase] at ih ⊢
    by_cases hk : k = a
    · subst hk
      simp only [List.filter_cons, ne_eq, not_true_eq_false, decide_false, Bool.false_eq_true, if_false, ih,
        Memory.read_cons]
      split <;> simp_all [eq_comm]
    · simp only [List.filter_cons, ne_eq, hk, not_false_eq_true, decide_true, if_true, Memory.read_cons, ih]
      split <;> simp_all

theorem Memory.read_insert (m : Memory) (a x : Nat) (b : Byte)
    (hno : ∀ cell ∈ m, cell.1 ≠ a) : (m.insert a b).read x = if x = a then b else m.read x := by
  induction m with
  | nil => simp only [Memory.insert, Memory.read_cons, Memory.read_nil, eq_comm]
  | cons cell m ih =>
    obtain ⟨k, c⟩ := cell
    have hk : k ≠ a := hno (k, c) (by simp)
    have ih := ih fun cell hc => hno cell (by simp [hc])
    simp only [Memory.insert]
    split
    · simp only [Memory.read_cons, eq_comm]
    · simp only [Memory.read_cons, ih]
      split <;> simp_all

/-- A read after a write, whatever the list (20_memory.md R200). -/
@[simp] theorem Memory.read_write (m : Memory) (a x : Nat) (b : Byte) :
    (m.write a b).read x = if x = a then b else m.read x := by
  unfold Memory.write
  split
  · next h => simp [Memory.read_erase, h]
  · rw [Memory.read_insert _ _ _ _ (by simp [Memory.erase]), Memory.read_erase]
    split <;> rfl

/-! ### The canonical form -/

theorem Memory.wfFrom_cons (lo k : Nat) (c : Byte) (m : Memory) :
    Memory.wfFrom lo ((k, c) :: m) = true ↔
      lo ≤ k ∧ k < Config.memSize ∧ c ≠ Config.memReset ∧ Memory.wfFrom (k + 1) m = true := by
  simp [Memory.wfFrom, and_assoc]

theorem Memory.wfFrom_mono {lo lo' : Nat} {m : Memory} (hlo : lo' ≤ lo) (h : Memory.wfFrom lo m = true) :
    Memory.wfFrom lo' m = true := by
  cases m with
  | nil => rfl
  | cons cell m =>
    rw [Memory.wfFrom_cons] at h ⊢
    exact ⟨by omega, h.2⟩

theorem Memory.wfFrom_erase {lo : Nat} {m : Memory} (a : Nat) (h : Memory.wfFrom lo m = true) :
    Memory.wfFrom lo (m.erase a) = true := by
  induction m generalizing lo with
  | nil => rfl
  | cons cell m ih =>
    obtain ⟨k, c⟩ := cell
    rw [Memory.wfFrom_cons] at h
    have ih' := ih h.2.2.2
    by_cases hk : k = a
    · simpa [Memory.erase, List.filter_cons, hk] using Memory.wfFrom_mono (by omega) ih'
    · simp only [Memory.erase, List.filter_cons, ne_eq, hk, not_false_eq_true, decide_true, if_true]
      rw [Memory.wfFrom_cons]
      exact ⟨h.1, h.2.1, h.2.2.1, ih'⟩

theorem Memory.wfFrom_insert {lo : Nat} {m : Memory} {a : Nat} {b : Byte} (hlo : lo ≤ a) (ha : a < Config.memSize)
    (hb : b ≠ Config.memReset) (hno : ∀ cell ∈ m, cell.1 ≠ a) (h : Memory.wfFrom lo m = true) :
    Memory.wfFrom lo (m.insert a b) = true := by
  induction m generalizing lo with
  | nil => simp only [Memory.insert]; rw [Memory.wfFrom_cons]; exact ⟨hlo, ha, hb, rfl⟩
  | cons cell m ih =>
    obtain ⟨k, c⟩ := cell
    have hk : k ≠ a := hno (k, c) (by simp)
    rw [Memory.wfFrom_cons] at h
    simp only [Memory.insert]
    split
    · next hlt =>
      rw [Memory.wfFrom_cons, Memory.wfFrom_cons]
      exact ⟨hlo, ha, hb, by omega, h.2⟩
    · next hlt =>
      rw [Memory.wfFrom_cons]
      exact ⟨h.1, h.2.1, h.2.2.1, ih (by omega) (fun cell hc => hno cell (by simp [hc])) h.2.2.2⟩

/-- Every write keeps the canonical form. -/
theorem Memory.wf_write {m : Memory} {a : Nat} (b : Byte) (ha : a < Config.memSize) (h : m.wf = true) :
    (m.write a b).wf = true := by
  unfold Memory.write
  split
  · exact Memory.wfFrom_erase a h
  · next hb =>
    exact Memory.wfFrom_insert (Nat.zero_le a) ha hb (by simp [Memory.erase]) (Memory.wfFrom_erase a h)

@[simp] theorem Memory.wf_reset : State.reset.mem.wf = true := rfl

theorem wf_memWrite8 {s : State} (a : Word) (b : Byte) (h : s.mem.wf = true) : (s.memWrite8 a b).mem.wf = true :=
  Memory.wf_write b a.isLt h

theorem wf_memWrite16 {s : State} (a v : Word) (h : s.mem.wf = true) : (s.memWrite16 a v).mem.wf = true :=
  wf_memWrite8 _ _ (wf_memWrite8 _ _ h)

theorem wf_writeBytes {s : State} (a : Word) (bytes : List Byte) (h : s.mem.wf = true) :
    (s.writeBytes a bytes).mem.wf = true := by
  induction bytes generalizing s a with
  | nil => exact h
  | cons b rest ih => exact ih (a + 1#16) (wf_memWrite8 a b h)

theorem wf_push {s : State} (v : Word) (h : s.mem.wf = true) : (s.push v).mem.wf = true :=
  wf_memWrite16 _ _ (by simpa using h)

/-! ### Reads after the state's own writes -/

/-- `MemRead8` after `MemWrite8` (20_memory.md R200). -/
@[simp] theorem memRead8_memWrite8 (s : State) (a x : Word) (b : Byte) :
    (s.memWrite8 a b).memRead8 x = if x = a then b else s.memRead8 x := by
  simp only [State.memRead8, memWrite8_mem, Memory.read_write, BitVec.toNat_inj]

end Sys2Proof.Machine
end

