-- ==== Sys2Proof/Laws/Ops.lean ====
section
/-! SUPPORT. One lemma per shared operation, saying everything it does: the 16-bit accesses, the fetch unit, the stack unit, the
fetch of an instruction, and the step over them. -/

namespace Sys2Proof.Machine

/-! ### 16-bit accesses -/

/-- Every byte after a 16-bit store (20_memory.md R202); the two addresses differ, so no order is seen (D8). -/
theorem memRead8_memWrite16 (s : State) (a x : Word) (v : Word) :
    (s.memWrite16 a v).memRead8 x =
      if x = a + 1#16 then highByte v else if x = a then lowByte v else s.memRead8 x := by
  simp only [State.memWrite16, memRead8_memWrite8]

/-- A 16-bit store writes memory and nothing else. -/
theorem memWrite16_eq (s : State) (a v : Word) : s.memWrite16 a v = { s with mem := (s.memWrite16 a v).mem } := rfl

theorem ne_succ (a : Word) : a ≠ a + 1#16 := by
  intro h
  have := congrArg BitVec.toNat h
  have ha := a.isLt
  simp only [BitVec.toNat_add, BitVec.toNat_ofNat] at this
  omega

/-! ### The fetch unit -/

theorem fetchU8_eq (s : State) : s.fetchU8 = (s.memRead8 s.ip, s.setIp (s.ip + 1#16)) := rfl

theorem fetchU16_eq (s : State) :
    s.fetchU16 = (wordOfBytes (s.memRead8 s.ip) (s.memRead8 (s.ip + 1#16)), s.setIp (s.ip + 1#16 + 1#16)) := rfl

theorem readBytes_succ (s : State) (a : Word) (n : Nat) :
    s.readBytes a (n + 1) = s.memRead8 a :: s.readBytes (a + 1#16) n := rfl

@[simp] theorem length_readBytes (s : State) (a : Word) (n : Nat) : (s.readBytes a n).length = n := by
  induction n generalizing a with
  | zero => rfl
  | succ n ih => simp [readBytes_succ, ih]

theorem getD_readBytes (s : State) (a : Word) (n k : Nat) (h : k < n) :
    (s.readBytes a n).getD k 0#8 = s.memRead8 (a + BitVec.ofNat 16 k) := by
  induction n generalizing a k with
  | zero => omega
  | succ n ih =>
    cases k with
    | zero => simp [readBytes_succ]
    | succ k =>
      have := ih (a + 1#16) k (by omega)
      simp only [readBytes_succ, List.getD_cons_succ, this]
      congr 1
      apply BitVec.eq_of_toNat_eq
      simp only [BitVec.toNat_add, BitVec.toNat_ofNat]
      omega

/-! ### The stack unit -/

/-- `push` in one line (20_memory.md R230). -/
theorem push_eq (s : State) (v : Word) : s.push v = (s.setReg .sp (s.sp - 2#16)).memWrite16 (s.sp - 2#16) v := rfl

theorem memRead8_push (s : State) (v x : Word) :
    (s.push v).memRead8 x =
      if x = s.sp - 2#16 + 1#16 then highByte v else if x = s.sp - 2#16 then lowByte v else s.memRead8 x := by
  simp only [push_eq, memRead8_memWrite16, memRead8_setReg]

/-- `push` writes SP and memory and nothing else. -/
theorem push_frame (s : State) (v : Word) : s.push v = { s with sp := s.sp - 2#16, mem := (s.push v).mem } := rfl

/-- `pop` reads the word at SP, adds 2 to SP and changes nothing else (20_memory.md R231). -/
theorem pop_eq (s : State) :
    s.pop = (wordOfBytes (s.memRead8 s.sp) (s.memRead8 (s.sp + 1#16)), { s with sp := s.sp + 2#16 }) := rfl

/-! ### The fields after a 16-bit store, a push and a pop -/

@[simp] theorem memWrite16_ax (s : State) (a v : Word) : (s.memWrite16 a v).ax = s.ax := rfl
@[simp] theorem memWrite16_bx (s : State) (a v : Word) : (s.memWrite16 a v).bx = s.bx := rfl
@[simp] theorem memWrite16_cx (s : State) (a v : Word) : (s.memWrite16 a v).cx = s.cx := rfl
@[simp] theorem memWrite16_dx (s : State) (a v : Word) : (s.memWrite16 a v).dx = s.dx := rfl
@[simp] theorem memWrite16_si (s : State) (a v : Word) : (s.memWrite16 a v).si = s.si := rfl
@[simp] theorem memWrite16_di (s : State) (a v : Word) : (s.memWrite16 a v).di = s.di := rfl
@[simp] theorem memWrite16_sp (s : State) (a v : Word) : (s.memWrite16 a v).sp = s.sp := rfl
@[simp] theorem memWrite16_bp (s : State) (a v : Word) : (s.memWrite16 a v).bp = s.bp := rfl
@[simp] theorem memWrite16_ip (s : State) (a v : Word) : (s.memWrite16 a v).ip = s.ip := rfl
@[simp] theorem memWrite16_flags (s : State) (a v : Word) : (s.memWrite16 a v).flags = s.flags := rfl
@[simp] theorem memWrite16_halted (s : State) (a v : Word) : (s.memWrite16 a v).halted = s.halted := rfl
@[simp] theorem memWrite16_haltCause (s : State) (a v : Word) : (s.memWrite16 a v).haltCause = s.haltCause := rfl
@[simp] theorem memWrite16_diagValid (s : State) (a v : Word) : (s.memWrite16 a v).diagValid = s.diagValid := rfl
@[simp] theorem memWrite16_diagOpcode (s : State) (a v : Word) : (s.memWrite16 a v).diagOpcode = s.diagOpcode := rfl
@[simp] theorem memWrite16_diagAddr (s : State) (a v : Word) : (s.memWrite16 a v).diagAddr = s.diagAddr := rfl

@[simp] theorem push_ax (s : State) (v : Word) : (s.push v).ax = s.ax := rfl
@[simp] theorem push_bx (s : State) (v : Word) : (s.push v).bx = s.bx := rfl
@[simp] theorem push_cx (s : State) (v : Word) : (s.push v).cx = s.cx := rfl
@[simp] theorem push_dx (s : State) (v : Word) : (s.push v).dx = s.dx := rfl
@[simp] theorem push_si (s : State) (v : Word) : (s.push v).si = s.si := rfl
@[simp] theorem push_di (s : State) (v : Word) : (s.push v).di = s.di := rfl
@[simp] theorem push_sp (s : State) (v : Word) : (s.push v).sp = s.sp - 2#16 := rfl
@[simp] theorem push_bp (s : State) (v : Word) : (s.push v).bp = s.bp := rfl
@[simp] theorem push_ip (s : State) (v : Word) : (s.push v).ip = s.ip := rfl
@[simp] theorem push_flags (s : State) (v : Word) : (s.push v).flags = s.flags := rfl
@[simp] theorem push_halted (s : State) (v : Word) : (s.push v).halted = s.halted := rfl
@[simp] theorem push_haltCause (s : State) (v : Word) : (s.push v).haltCause = s.haltCause := rfl
@[simp] theorem push_diagValid (s : State) (v : Word) : (s.push v).diagValid = s.diagValid := rfl
@[simp] theorem push_diagOpcode (s : State) (v : Word) : (s.push v).diagOpcode = s.diagOpcode := rfl
@[simp] theorem push_diagAddr (s : State) (v : Word) : (s.push v).diagAddr = s.diagAddr := rfl

@[simp] theorem pop_snd_ax (s : State) : s.pop.2.ax = s.ax := rfl
@[simp] theorem pop_snd_bx (s : State) : s.pop.2.bx = s.bx := rfl
@[simp] theorem pop_snd_cx (s : State) : s.pop.2.cx = s.cx := rfl
@[simp] theorem pop_snd_dx (s : State) : s.pop.2.dx = s.dx := rfl
@[simp] theorem pop_snd_si (s : State) : s.pop.2.si = s.si := rfl
@[simp] theorem pop_snd_di (s : State) : s.pop.2.di = s.di := rfl
@[simp] theorem pop_snd_sp (s : State) : s.pop.2.sp = s.sp + 2#16 := rfl
@[simp] theorem pop_snd_bp (s : State) : s.pop.2.bp = s.bp := rfl
@[simp] theorem pop_snd_ip (s : State) : s.pop.2.ip = s.ip := rfl
@[simp] theorem pop_snd_flags (s : State) : s.pop.2.flags = s.flags := rfl
@[simp] theorem pop_snd_halted (s : State) : s.pop.2.halted = s.halted := rfl
@[simp] theorem pop_snd_haltCause (s : State) : s.pop.2.haltCause = s.haltCause := rfl
@[simp] theorem pop_snd_diagValid (s : State) : s.pop.2.diagValid = s.diagValid := rfl
@[simp] theorem pop_snd_diagOpcode (s : State) : s.pop.2.diagOpcode = s.diagOpcode := rfl
@[simp] theorem pop_snd_diagAddr (s : State) : s.pop.2.diagAddr = s.diagAddr := rfl
@[simp] theorem pop_snd_mem (s : State) : s.pop.2.mem = s.mem := rfl

@[simp] theorem zf_push (s : State) (v : Word) : (s.push v).zf = s.zf := rfl
@[simp] theorem sf_push (s : State) (v : Word) : (s.push v).sf = s.sf := rfl
@[simp] theorem zf_pop_snd (s : State) : s.pop.2.zf = s.zf := rfl
@[simp] theorem sf_pop_snd (s : State) : s.pop.2.sf = s.sf := rfl
@[simp] theorem memRead8_pop_snd (s : State) (a : Word) : s.pop.2.memRead8 a = s.memRead8 a := rfl

/-! ### The step -/

theorem fetchInstr_eq (s : State) :
    s.fetchInstr = (s.fetchInstr.1, s.setIp (s.ip + BitVec.ofNat 16 s.fetchInstr.1.length)) := rfl

theorem fetchInstr_fst (s : State) :
    s.fetchInstr.1 = decodeWindow (s.memRead8 s.ip) (s.memRead8 (s.ip + 1#16)) (s.memRead8 (s.ip + 2#16))
      (s.memRead8 (s.ip + 3#16)) := rfl

theorem step_halted {s : State} (h : s.halted = true) : step s = .next s := by
  simp [step, h]

theorem step_running {s : State} (h : s.halted = false) :
    step s = exec s.fetchInstr.1 (s.setIp (s.ip + BitVec.ofNat 16 s.fetchInstr.1.length)) := by
  simp only [step, h, Bool.false_eq_true, if_false]
  rw [fetchInstr_eq]

/-! ### The host's ports -/

theorem load_eq (s : State) (a : Word) (b : Byte) : s.load a b = s.memWrite8 a b := rfl

theorem hostPop_eq (s : State) : hostPop s = s.pop := rfl

theorem boot_eq (program : List Byte) : boot program = State.reset.loadFrom 0 program := rfl

theorem wf_loadFrom {s : State} (k : Nat) (bytes : List Byte) (h : s.mem.wf = true) :
    (s.loadFrom k bytes).mem.wf = true := by
  induction bytes generalizing s k with
  | nil => exact h
  | cons b rest ih => exact ih (k + 1) (wf_memWrite8 _ b h)

end Sys2Proof.Machine
end

