-- ==== Sys2Proof/Laws/Exec.lean ====
section
/-! SUPPORT. What `exec` answers, one equation per constructor over the shared operations, for case analyses over all
instructions. -/

namespace Sys2Proof.Machine

/-- The arithmetic result's register and flags, as the two writes it is. -/
@[simp] theorem writeResultSz_eq (s : State) (r : Reg) (v : Word) : s.writeResultSz r v = (s.setReg r v).setSz v := rfl

@[simp] theorem exec_movAxImm16 (imm : Word) (s : State) : exec (.movAxImm16 imm) s = .next (s.setReg .ax imm) := rfl
@[simp] theorem exec_movBxImm16 (imm : Word) (s : State) : exec (.movBxImm16 imm) s = .next (s.setReg .bx imm) := rfl
@[simp] theorem exec_movCxImm16 (imm : Word) (s : State) : exec (.movCxImm16 imm) s = .next (s.setReg .cx imm) := rfl
@[simp] theorem exec_incAx (s : State) :
    exec .incAx s = .next ((s.setReg .ax (s.ax + 1#16)).setSz (s.ax + 1#16)) := rfl
@[simp] theorem exec_decAx (s : State) :
    exec .decAx s = .next ((s.setReg .ax (s.ax - 1#16)).setSz (s.ax - 1#16)) := rfl
@[simp] theorem exec_decCx (s : State) :
    exec .decCx s = .next ((s.setReg .cx (s.cx - 1#16)).setSz (s.cx - 1#16)) := rfl
@[simp] theorem exec_pushAx (s : State) : exec .pushAx s = .next (s.push s.ax) := rfl
@[simp] theorem exec_popAx (s : State) : exec .popAx s = .next (s.pop.2.setReg .ax s.pop.1) := rfl
@[simp] theorem exec_mulCx (s : State) :
    exec .mulCx s =
      .next ((s.setReg .ax (productLow (mulWide s.ax s.cx))).setReg .dx (productHigh (mulWide s.ax s.cx))) := rfl
@[simp] theorem exec_f7Nop (sel : Byte) (s : State) : exec (.f7Nop sel) s = .next s := rfl
@[simp] theorem exec_cmpCxImm16 (imm : Word) (s : State) :
    exec (.cmpCxImm16 imm) s = .next (s.setSz (s.cx - imm)) := rfl
@[simp] theorem exec_op81Nop (sel : Byte) (s : State) : exec (.op81Nop sel) s = .next s := rfl
theorem exec_jnzRel8 (rel : Byte) (s : State) :
    exec (.jnzRel8 rel) s = .next (if s.zf = false then s.setIp (s.ip + relOffset rel) else s) := rfl
@[simp] theorem exec_hlt (s : State) : exec .hlt s = .next s.halt := rfl
@[simp] theorem exec_unrecognized (op : Byte) (s : State) :
    exec (.unrecognized op) s = .next (s.raiseUnrecognizedOpcode op (s.ip - 1#16)) := rfl

/-- JNZ with Z clear jumps. -/
@[simp] theorem exec_jnzRel8_taken (rel : Byte) {s : State} (h : s.zf = false) :
    exec (.jnzRel8 rel) s = .next (s.setIp (s.ip + relOffset rel)) := by
  rw [exec_jnzRel8, if_pos h]

/-- JNZ with Z set falls through. -/
@[simp] theorem exec_jnzRel8_not_taken (rel : Byte) {s : State} (h : s.zf = true) :
    exec (.jnzRel8 rel) s = .next s := by
  rw [exec_jnzRel8, if_neg (by simp [h])]

end Sys2Proof.Machine
end

