-- ==== Sys2Proof/Laws/Step.lean ====
section
/-! SUPPORT. Everything a step can do, once: what a Running step answers follows row by row of the opcode map from the bytes at
IP. Whole-machine claims cite this instead of unfolding the step. -/

namespace Sys2Proof.Machine

/-- To show something of what a Running step answers, show it for each row of the map (30_encoding.md R320, R340), given the
bytes at IP and with IP past them. -/
theorem step_running_cases {s : State} (hr : s.halted = false)
    (P : Host.Outcome State Fault Refusal → Prop)
    (movAx : s.memRead8 s.ip = 0xB8#8 →
      P (exec (.movAxImm16 (wordOfBytes (s.memRead8 (s.ip + 1#16)) (s.memRead8 (s.ip + 2#16)))) (s.setIp (s.ip + 3#16))))
    (movBx : s.memRead8 s.ip = 0xBB#8 →
      P (exec (.movBxImm16 (wordOfBytes (s.memRead8 (s.ip + 1#16)) (s.memRead8 (s.ip + 2#16)))) (s.setIp (s.ip + 3#16))))
    (movCx : s.memRead8 s.ip = 0xB9#8 →
      P (exec (.movCxImm16 (wordOfBytes (s.memRead8 (s.ip + 1#16)) (s.memRead8 (s.ip + 2#16)))) (s.setIp (s.ip + 3#16))))
    (incAx : s.memRead8 s.ip = 0x40#8 → P (exec .incAx (s.setIp (s.ip + 1#16))))
    (decAx : s.memRead8 s.ip = 0x48#8 → P (exec .decAx (s.setIp (s.ip + 1#16))))
    (decCx : s.memRead8 s.ip = 0x49#8 → P (exec .decCx (s.setIp (s.ip + 1#16))))
    (pushAx : s.memRead8 s.ip = 0x50#8 → P (exec .pushAx (s.setIp (s.ip + 1#16))))
    (popAx : s.memRead8 s.ip = 0x58#8 → P (exec .popAx (s.setIp (s.ip + 1#16))))
    (mulCx : s.memRead8 s.ip = 0xF7#8 → s.memRead8 (s.ip + 1#16) = 0xE1#8 → P (exec .mulCx (s.setIp (s.ip + 2#16))))
    (f7Nop : s.memRead8 s.ip = 0xF7#8 → s.memRead8 (s.ip + 1#16) ≠ 0xE1#8 →
      P (exec (.f7Nop (s.memRead8 (s.ip + 1#16))) (s.setIp (s.ip + 2#16))))
    (cmpCx : s.memRead8 s.ip = 0x81#8 → s.memRead8 (s.ip + 1#16) = 0xF9#8 →
      P (exec (.cmpCxImm16 (wordOfBytes (s.memRead8 (s.ip + 2#16)) (s.memRead8 (s.ip + 3#16)))) (s.setIp (s.ip + 4#16))))
    (op81Nop : s.memRead8 s.ip = 0x81#8 → s.memRead8 (s.ip + 1#16) ≠ 0xF9#8 →
      P (exec (.op81Nop (s.memRead8 (s.ip + 1#16))) (s.setIp (s.ip + 2#16))))
    (jnz : s.memRead8 s.ip = 0x75#8 →
      P (exec (.jnzRel8 (s.memRead8 (s.ip + 1#16))) (s.setIp (s.ip + 2#16))))
    (hlt : s.memRead8 s.ip = 0xF4#8 → P (exec .hlt (s.setIp (s.ip + 1#16))))
    (unrecognized : s.memRead8 s.ip ∉ opcodeBytes →
      P (exec (.unrecognized (s.memRead8 s.ip)) (s.setIp (s.ip + 1#16)))) :
    P (step s) := by
  rw [step_running hr, fetchInstr_fst]
  exact decodeWindow_cases
    (motive := fun b0 b1 b2 b3 i =>
      s.memRead8 s.ip = b0 → s.memRead8 (s.ip + 1#16) = b1 → s.memRead8 (s.ip + 2#16) = b2 →
        s.memRead8 (s.ip + 3#16) = b3 → P (exec i (s.setIp (s.ip + BitVec.ofNat 16 i.length))))
    (fun _ _ _ h0 h1 h2 _ => h1 ▸ h2 ▸ movAx h0)
    (fun _ _ _ h0 h1 h2 _ => h1 ▸ h2 ▸ movBx h0)
    (fun _ _ _ h0 h1 h2 _ => h1 ▸ h2 ▸ movCx h0)
    (fun _ _ _ h0 _ _ _ => incAx h0)
    (fun _ _ _ h0 _ _ _ => decAx h0)
    (fun _ _ _ h0 _ _ _ => decCx h0)
    (fun _ _ _ h0 _ _ _ => pushAx h0)
    (fun _ _ _ h0 _ _ _ => popAx h0)
    (fun _ _ h0 h1 _ _ => mulCx h0 h1)
    (fun _ _ _ hs h0 h1 _ _ => h1 ▸ f7Nop h0 (h1 ▸ hs))
    (fun _ _ h0 h1 h2 h3 => h2 ▸ h3 ▸ cmpCx h0 h1)
    (fun _ _ _ hs h0 h1 _ _ => h1 ▸ op81Nop h0 (h1 ▸ hs))
    (fun _ _ _ h0 h1 _ _ => h1 ▸ jnz h0)
    (fun _ _ _ h0 _ _ _ => hlt h0)
    (fun _ _ _ _ hs h0 _ _ _ => h0 ▸ unrecognized (h0 ▸ hs))
    _ _ _ _ rfl rfl rfl rfl

/-! ### Runs of the host's interface -/

theorem core_run_zero (s : State) : Sys2Proof.core.run 0 s = .next s := rfl

theorem core_run_succ {s t : State} (n : Nat) (h : step s = .next t) :
    Sys2Proof.core.run (n + 1) s = Sys2Proof.core.run n t := by
  have h' : Sys2Proof.core.step s = Host.Outcome.next t := h
  simp only [Host.Core.run]
  rw [h']

theorem drive_halted {s : State} (cap : Nat) (h : s.halted = true) : drive cap s = .endsHalted s := by
  cases cap <;> simp [drive, h]

theorem drive_succ {s t : State} (cap : Nat) (hr : s.halted = false) (h : step s = .next t) :
    drive (cap + 1) s = drive cap t := by
  simp [drive, hr, h]

end Sys2Proof.Machine
end

