-- ==== Sys2Proof/Laws/Safety.lean ====
section
/-! SUPPORT. Small lemmas about the terms of Sys2Proof/Safety.lean: the frame predicates, Z and S of a value, and the states two runs
are compared from. -/

namespace Sys2Proof.Machine

/-! ### Frames -/

theorem regsKept_refl (written : List Reg) (s : State) : RegsKept written s s := fun _ _ => rfl

theorem inertFlagsKept_of_flags_eq {s t : State} (h : t.flags = s.flags) : InertFlagsKept s t := fun k _ _ => by rw [h]

theorem memKeptOutside_of_mem_eq {s t : State} (stored : List Word) (h : t.mem = s.mem) : MemKeptOutside stored s t :=
  fun a _ => memRead8_of_mem_eq h a

theorem inertFlagsKept_setSz {s t : State} (v : Word) (h : t.flags = s.flags) : InertFlagsKept s (t.setSz v) := by
  intro k h6 h7
  rw [setSz_flags, getLsbD_szWord, if_neg h6, if_neg h7, h]

theorem restKept_setReg (s : State) (r : Reg) (v : Word) : RestKept [r] s (s.setReg r v) :=
  ⟨by simp, fun _ hq => getReg_setReg_other s v (by simpa using hq), by simp [StatusKept],
    memKeptOutside_of_mem_eq _ (by simp)⟩

theorem restKept_setSz {written : List Reg} {s t : State} (v : Word) (h : RestKept written s t) :
    RestKept written s (t.setSz v) :=
  ⟨h.1, fun r hr => (getReg_setSz t v r).trans (h.2.1 r hr), h.2.2.1, h.2.2.2⟩

/-! ### States to compare runs from -/

@[simp] theorem withFlags_ax (s : State) (f : Word) : (s.withFlags f).ax = s.ax := rfl
@[simp] theorem withFlags_bx (s : State) (f : Word) : (s.withFlags f).bx = s.bx := rfl
@[simp] theorem withFlags_cx (s : State) (f : Word) : (s.withFlags f).cx = s.cx := rfl
@[simp] theorem withFlags_dx (s : State) (f : Word) : (s.withFlags f).dx = s.dx := rfl
@[simp] theorem withFlags_si (s : State) (f : Word) : (s.withFlags f).si = s.si := rfl
@[simp] theorem withFlags_di (s : State) (f : Word) : (s.withFlags f).di = s.di := rfl
@[simp] theorem withFlags_sp (s : State) (f : Word) : (s.withFlags f).sp = s.sp := rfl
@[simp] theorem withFlags_bp (s : State) (f : Word) : (s.withFlags f).bp = s.bp := rfl
@[simp] theorem withFlags_ip (s : State) (f : Word) : (s.withFlags f).ip = s.ip := rfl
@[simp] theorem withFlags_flags (s : State) (f : Word) : (s.withFlags f).flags = f := rfl
@[simp] theorem withFlags_halted (s : State) (f : Word) : (s.withFlags f).halted = s.halted := rfl
@[simp] theorem withFlags_haltCause (s : State) (f : Word) : (s.withFlags f).haltCause = s.haltCause := rfl
@[simp] theorem withFlags_diagValid (s : State) (f : Word) : (s.withFlags f).diagValid = s.diagValid := rfl
@[simp] theorem withFlags_diagOpcode (s : State) (f : Word) : (s.withFlags f).diagOpcode = s.diagOpcode := rfl
@[simp] theorem withFlags_diagAddr (s : State) (f : Word) : (s.withFlags f).diagAddr = s.diagAddr := rfl
@[simp] theorem withFlags_mem (s : State) (f : Word) : (s.withFlags f).mem = s.mem := rfl

@[simp] theorem withHaltRecord_ax (s : State) (c : BitVec 2) (v : Bool) (op : Byte) (a : Word) :
    (s.withHaltRecord c v op a).ax = s.ax := rfl
@[simp] theorem withHaltRecord_bx (s : State) (c : BitVec 2) (v : Bool) (op : Byte) (a : Word) :
    (s.withHaltRecord c v op a).bx = s.bx := rfl
@[simp] theorem withHaltRecord_cx (s : State) (c : BitVec 2) (v : Bool) (op : Byte) (a : Word) :
    (s.withHaltRecord c v op a).cx = s.cx := rfl
@[simp] theorem withHaltRecord_dx (s : State) (c : BitVec 2) (v : Bool) (op : Byte) (a : Word) :
    (s.withHaltRecord c v op a).dx = s.dx := rfl
@[simp] theorem withHaltRecord_si (s : State) (c : BitVec 2) (v : Bool) (op : Byte) (a : Word) :
    (s.withHaltRecord c v op a).si = s.si := rfl
@[simp] theorem withHaltRecord_di (s : State) (c : BitVec 2) (v : Bool) (op : Byte) (a : Word) :
    (s.withHaltRecord c v op a).di = s.di := rfl
@[simp] theorem withHaltRecord_sp (s : State) (c : BitVec 2) (v : Bool) (op : Byte) (a : Word) :
    (s.withHaltRecord c v op a).sp = s.sp := rfl
@[simp] theorem withHaltRecord_bp (s : State) (c : BitVec 2) (v : Bool) (op : Byte) (a : Word) :
    (s.withHaltRecord c v op a).bp = s.bp := rfl
@[simp] theorem withHaltRecord_ip (s : State) (c : BitVec 2) (v : Bool) (op : Byte) (a : Word) :
    (s.withHaltRecord c v op a).ip = s.ip := rfl
@[simp] theorem withHaltRecord_flags (s : State) (c : BitVec 2) (v : Bool) (op : Byte) (a : Word) :
    (s.withHaltRecord c v op a).flags = s.flags := rfl
@[simp] theorem withHaltRecord_halted (s : State) (c : BitVec 2) (v : Bool) (op : Byte) (a : Word) :
    (s.withHaltRecord c v op a).halted = s.halted := rfl
@[simp] theorem withHaltRecord_haltCause (s : State) (c : BitVec 2) (v : Bool) (op : Byte) (a : Word) :
    (s.withHaltRecord c v op a).haltCause = c := rfl
@[simp] theorem withHaltRecord_diagValid (s : State) (c : BitVec 2) (v : Bool) (op : Byte) (a : Word) :
    (s.withHaltRecord c v op a).diagValid = v := rfl
@[simp] theorem withHaltRecord_diagOpcode (s : State) (c : BitVec 2) (v : Bool) (op : Byte) (a : Word) :
    (s.withHaltRecord c v op a).diagOpcode = op := rfl
@[simp] theorem withHaltRecord_diagAddr (s : State) (c : BitVec 2) (v : Bool) (op : Byte) (a : Word) :
    (s.withHaltRecord c v op a).diagAddr = a := rfl
@[simp] theorem withHaltRecord_mem (s : State) (c : BitVec 2) (v : Bool) (op : Byte) (a : Word) :
    (s.withHaltRecord c v op a).mem = s.mem := rfl

@[simp] theorem memRead8_withFlags (s : State) (f x : Word) : (s.withFlags f).memRead8 x = s.memRead8 x := rfl
@[simp] theorem memRead8_withHaltRecord (s : State) (c : BitVec 2) (v : Bool) (op : Byte) (a x : Word) :
    (s.withHaltRecord c v op a).memRead8 x = s.memRead8 x := rfl
@[simp] theorem zf_withHaltRecord (s : State) (c : BitVec 2) (v : Bool) (op : Byte) (a : Word) :
    (s.withHaltRecord c v op a).zf = s.zf := rfl

end Sys2Proof.Machine
end

