-- ==== Sys2Proof/Tests/Slice0.lean ====
section
/-! SUPPORT. The model's own tests: the well-formedness smoke, words written out bit by bit from the encodings of 30_encoding.md,
the vectors of 95_test_vectors.md (their expected results are the spec's), and a witness for the hypotheses of every
statement that has some. -/

namespace Sys2Proof.Tests

open Sys2Proof.Machine

/-! ### Helpers -/

/-- The reset state with IP at an address and bytes placed there. -/
def placed (ip : Word) (bytes : List Byte) : State := (State.reset.setIp ip).writeBytes ip bytes

/-- The state one step later. -/
def after (s : State) : Option State :=
  match step s with
  | .next t => some t
  | .fault _ => none
  | .refused _ => none

/-- What is read of the state one step later. -/
def see {α : Type} (s : State) (f : State → α) : Option α := (after s).map f

/-- The instruction a byte string begins with and the bytes after it. -/
def reads (bytes : List Byte) : Option (Instr × List Byte) :=
  match decode bytes with
  | .ok r => some r
  | .error _ => none

/-! ### Well-formedness: each check refuses its ill-formed term -/

theorem test_f7Nop_refuses_implemented_selector : (Instr.f7Nop 0xE1#8).wellFormed = false := by decide
theorem test_op81Nop_refuses_implemented_selector : (Instr.op81Nop 0xF9#8).wellFormed = false := by decide
theorem test_unrecognized_refuses_opcodes :
    (opcodeBytes.map fun op => (Instr.unrecognized op).wellFormed) = List.replicate 12 false := by decide
theorem test_wellFormed_terms :
    [Instr.f7Nop 0xE0#8, .op81Nop 0xF8#8, .unrecognized 0x00#8, .hlt].map Instr.wellFormed = List.replicate 4 true := by
  decide

/-! ### Decoding: words written out from 30_encoding.md R301 and the instruction rules -/

theorem test_decode_movAx : reads [0b10111000#8, 0b00000001#8, 0b00000000#8] = some (.movAxImm16 0x0001#16, []) := by decide
theorem test_decode_movBx : reads [0b10111011#8, 0b11111111#8, 0b01111111#8] = some (.movBxImm16 0x7FFF#16, []) := by decide
theorem test_decode_movCx : reads [0b10111001#8, 0b00110100#8, 0b00010010#8] = some (.movCxImm16 0x1234#16, []) := by decide
theorem test_decode_incAx : reads [0b01000000#8] = some (.incAx, []) := by decide
theorem test_decode_decAx : reads [0b01001000#8] = some (.decAx, []) := by decide
theorem test_decode_decCx : reads [0b01001001#8] = some (.decCx, []) := by decide
theorem test_decode_pushAx : reads [0b01010000#8] = some (.pushAx, []) := by decide
theorem test_decode_popAx : reads [0b01011000#8] = some (.popAx, []) := by decide
theorem test_decode_mulCx : reads [0b11110111#8, 0b11100001#8] = some (.mulCx, []) := by decide
theorem test_decode_f7Nop : reads [0b11110111#8, 0b11110001#8] = some (.f7Nop 0xF1#8, []) := by decide
theorem test_decode_cmpCx :
    reads [0b10000001#8, 0b11111001#8, 0b00000001#8, 0b10000000#8] = some (.cmpCxImm16 0x8001#16, []) := by decide
theorem test_decode_op81Nop_leaves_immediate :
    reads [0b10000001#8, 0b11111000#8, 0x05#8, 0x00#8] = some (.op81Nop 0xF8#8, [0x05#8, 0x00#8]) := by decide
theorem test_decode_jnz : reads [0b01110101#8, 0b11110111#8] = some (.jnzRel8 0xF7#8, []) := by decide
theorem test_decode_hlt : reads [0b11110100#8] = some (.hlt, []) := by decide
theorem test_decode_unrecognized : reads [0b11111111#8, 0x01#8] = some (.unrecognized 0xFF#8, [0x01#8]) := by decide

/-- R341: both ends of every range, and its neighbours. -/
theorem test_unrecognized_range_ends :
    ([0x00#8, 0x3F#8, 0x41#8, 0x47#8, 0x4A#8, 0x4F#8, 0x51#8, 0x57#8, 0x59#8, 0x74#8, 0x76#8, 0x80#8, 0x82#8, 0xB7#8,
      0xBA#8, 0xBC#8, 0xF3#8, 0xF5#8, 0xF6#8, 0xF8#8, 0xFF#8].map fun b => decodeWindow b 0#8 0#8 0#8 == .unrecognized b)
        = List.replicate 21 true ∧
    (opcodeBytes.map fun b => decodeWindow b 0#8 0#8 0#8 == .unrecognized b) = List.replicate 12 false := by decide

theorem test_decode_rejects_empty : (match decode [] with | .error e => some e | .ok _ => none) = some .noOpcode := by decide
theorem test_decode_rejects_truncated :
    (match decode [0x81#8, 0xF9#8, 0x01#8] with | .error e => some e | .ok _ => none) = some (.truncated 4 3) := by decide

/-- The table's words of a one-byte and of a two-byte match (R344), decoded and run as the first instruction. -/
theorem test_table_words :
    decodeTableWord 8 0xB8 = some (.movAxImm16 0#16) ∧ decodeTableWord 8 0xF7 = some (.f7Nop 0#8) ∧
    decodeTableWord 16 0xF7E1 = some .mulCx ∧ decodeTableWord 16 0x81F9 = some (.cmpCxImm16 0#16) ∧
    decodeTableWord 8 0x00 = some (.unrecognized 0#8) := by decide
theorem test_table_word_runs_first :
    see (State.reset.withFetchWord 16 0x81F9) (fun t => (t.ip, t.flags)) = some (0x0004#16, 0x0040#16) := by decide

/-! ### The vectors of 95_test_vectors.md -/

-- 2.1
theorem test_fetchU16_little_endian :
    ((placed 0x0000#16 [0x34#8, 0x12#8]).fetchU16.1, (placed 0x0000#16 [0x34#8, 0x12#8]).fetchU16.2.ip)
      = (0x1234#16, 0x0002#16) := by decide
theorem test_fetchU16_wraps :
    ((placed 0xFFFF#16 [0x01#8, 0x80#8]).fetchU16.1, (placed 0xFFFF#16 [0x01#8, 0x80#8]).fetchU16.2.ip)
      = (0x8001#16, 0x0001#16) := by decide

-- 2.2
theorem test_setSz_table :
    [szWord 0x0000#16 0x0000#16, szWord 0x0000#16 0x0001#16, szWord 0x0000#16 0x7FFF#16, szWord 0x0000#16 0x8000#16,
      szWord 0x0000#16 0xFFFF#16, szWord 0x00C0#16 0x1234#16, szWord 0xFF3F#16 0x0000#16, szWord 0xFFFF#16 0x8001#16]
      = [0x0040#16, 0x0000#16, 0x0000#16, 0x0080#16, 0x0080#16, 0x0000#16, 0xFF7F#16, 0xFFBF#16] := by decide

-- 2.3
theorem test_movAx_zero_sets_no_flag :
    see (placed 0#16 [0xB8#8, 0x00#8, 0x00#8]) (fun t => (t.ax, t.ip, t.flags)) = some (0#16, 3#16, 0#16) := by decide
theorem test_movBx :
    see (placed 0x10#16 [0xBB#8, 0xFF#8, 0xFF#8]) (fun t => (t.bx, t.ip)) = some (0xFFFF#16, 0x13#16) := by decide
theorem test_movCx_wraps :
    see (placed 0xFFFE#16 [0xB9#8, 0x34#8, 0x12#8]) (fun t => (t.cx, t.ip)) = some (0x1234#16, 0x0001#16) := by decide

-- 2.4
theorem test_incAx_wraps :
    see ((placed 0#16 [0x40#8]).setReg .ax 0xFFFF#16) (fun t => (t.ax, t.flags)) = some (0#16, 0x40#16) := by decide
theorem test_incAx_sign :
    see ((placed 0#16 [0x40#8]).setReg .ax 0x7FFF#16) (fun t => (t.ax, t.flags)) = some (0x8000#16, 0x80#16) := by decide
theorem test_decAx_wraps :
    see (placed 0#16 [0x48#8]) (fun t => (t.ax, t.flags)) = some (0xFFFF#16, 0x80#16) := by decide
theorem test_decAx_sign_edge :
    see ((placed 0#16 [0x48#8]).setReg .ax 0x8000#16) (fun t => (t.ax, t.flags)) = some (0x7FFF#16, 0#16) := by decide
theorem test_decCx_wraps :
    see (placed 0#16 [0x49#8]) (fun t => (t.cx, t.flags)) = some (0xFFFF#16, 0x80#16) := by decide
theorem test_decCx_to_zero :
    see ((placed 0#16 [0x49#8]).setReg .cx 1#16) (fun t => (t.cx, t.flags)) = some (0#16, 0x40#16) := by decide

-- 2.5
theorem test_mulCx_largest :
    see (((placed 0#16 [0xF7#8, 0xE1#8]).setReg .ax 0xFFFF#16).setReg .cx 0xFFFF#16) (fun t => (t.ax, t.dx, t.ip))
      = some (0x0001#16, 0xFFFE#16, 2#16) := by decide
theorem test_mulCx_keeps_flags :
    see ((((placed 0#16 [0xF7#8, 0xE1#8]).setReg .ax 0x1234#16).setReg .dx 0x1111#16).withFlags 0x80#16)
      (fun t => (t.ax, t.dx, t.flags)) = some (0#16, 0#16, 0x80#16) := by decide
theorem test_f7Nop :
    see (placed 0x20#16 [0xF7#8, 0xE0#8]) (fun t => decide (t = (placed 0x20#16 [0xF7#8, 0xE0#8]).setIp 0x22#16))
      = some true := by decide

-- 2.6
theorem test_cmpCx_wrapped_sign :
    see ((placed 0#16 [0x81#8, 0xF9#8, 0x01#8, 0x80#8]).setReg .cx 1#16) (fun t => (t.flags, t.cx, t.ip))
      = some (0x80#16, 1#16, 4#16) := by decide
theorem test_cmpCx_not_less_than :
    see ((placed 0#16 [0x81#8, 0xF9#8, 0x01#8, 0x00#8]).setReg .cx 0x8000#16) (fun t => t.flags) = some 0#16 := by decide
theorem test_op81Nop_then_unrecognized :
    (see (placed 0#16 [0x81#8, 0xF8#8, 0x05#8, 0x00#8]) (fun t => see t fun u => (t.ip, u.diagOpcode, u.diagAddr))).join
      = some (0x0002#16, 0x05#8, 0x0002#16) := by decide

-- 2.7
theorem test_pushAx_straddles_top :
    see (((placed 0x100#16 [0x50#8]).setReg .ax 0xABCD#16).setReg .sp 0x0001#16)
      (fun t => (t.sp, t.memRead8 0xFFFF#16, t.memRead8 0x0000#16)) = some (0xFFFF#16, 0xCD#8, 0xAB#8) := by decide
theorem test_pushAx_odd :
    see (((placed 0#16 [0x50#8]).setReg .ax 0x1234#16).setReg .sp 0x1001#16)
      (fun t => (t.sp, t.memRead8 0x0FFF#16, t.memRead8 0x1000#16)) = some (0x0FFF#16, 0x34#8, 0x12#8) := by decide
theorem test_popAx_straddles_top :
    see ((((placed 0x100#16 [0x58#8]).memWrite8 0xFFFF#16 0x01#8).memWrite8 0x0000#16 0x02#8).setReg .sp 0xFFFF#16)
      (fun t => (t.ax, t.sp)) = some (0x0201#16, 0x0001#16) := by decide
theorem test_popAx_at_reset :
    see (placed 0#16 [0x58#8]) (fun t => (t.ax, t.sp, t.flags)) = some (0#16, 0xFFF2#16, 0#16) := by decide
theorem test_hostPop_halted :
    (let p := hostPop (((State.reset.memWrite8 0xFFEE#16 0x78#8).setReg .sp 0xFFEE#16).halt)
     (p.1, p.2.sp, p.2.halted)) = (0x0078#16, 0xFFF0#16, true) := by decide

-- 2.8
theorem test_jnz_targets :
    [see (placed 0x000D#16 [0x75#8, 0xF7#8]) State.ip, see (placed 0x0040#16 [0x75#8, 0xFE#8]) State.ip,
      see (placed 0x0040#16 [0x75#8, 0x7F#8]) State.ip, see (placed 0x0040#16 [0x75#8, 0x80#8]) State.ip,
      see (placed 0x0000#16 [0x75#8, 0x80#8]) State.ip, see (placed 0xFFF0#16 [0x75#8, 0x7F#8]) State.ip]
      = [some 0x0006#16, some 0x0040#16, some 0x00C1#16, some 0xFFC2#16, some 0xFF82#16, some 0x0071#16] := by decide
theorem test_jnz_not_taken :
    see ((placed 0x0100#16 [0x75#8, 0x80#8]).withFlags 0x40#16) State.ip = some 0x0102#16 := by decide
theorem test_hlt :
    see (placed 0x0010#16 [0xF4#8]) (fun t => (t.halted, t.haltCause, t.ip, t.diagValid))
      = some (true, 1#2, 0x0011#16, false) := by decide

-- 2.9
theorem test_unrecognized_at_top :
    see (placed 0xFFFF#16 [0x0F#8]) (fun t => (t.halted, t.haltCause, t.diagOpcode, t.diagAddr, t.ip))
      = some (true, 2#2, 0x0F#8, 0xFFFF#16, 0x0000#16) := by decide
theorem test_halted_step_is_noop :
    (see (placed 0#16 [0xFF#8]) (fun t => see t fun u => decide (u = t))).join = some true := by decide

-- R350
theorem test_asmJnz :
    [asmJnz 0x0006#16 0x000D#16, asmJnz 0x0000#16 0x0000#16, asmJnz 0x0100#16 0x0000#16]
      = [some 0xF7#8, some 0xFE#8, none] := by decide
theorem test_asmImm :
    [asmImm (-1), asmImm (-32768), asmImm 65535, asmImm 65536, asmImm (-32769)]
      = [some 0xFFFF#16, some 0x8000#16, some 0xFFFF#16, none, none] := by decide

/-! ### Witnesses: the hypotheses of every statement are met together -/

/-- DecodeInvertsEncode. -/
theorem witness_DecodeInvertsEncode :
    ∃ i : Instr, i.wellFormed = true ∧ i = .unrecognized 0x90#8 := ⟨_, by decide, rfl⟩

/-- EncodeInvertsDecode. -/
theorem witness_EncodeInvertsDecode :
    ∃ (bytes rest : List Byte) (i : Instr), decode bytes = .ok (i, rest) ∧ rest ≠ [] :=
  ⟨[0x81#8, 0xF8#8, 0x05#8], [0x05#8], .op81Nop 0xF8#8, rfl, by decide⟩

/-- StepRunsDecodedInstruction, with bytes that wrap. -/
theorem witness_StepRunsDecodedInstruction :
    ∃ (s : State) (n : Nat) (i : Instr) (rest : List Byte), s.halted = false ∧
      decode (s.readBytes s.ip n) = .ok (i, rest) :=
  ⟨placed 0xFFFE#16 [0xB9#8, 0x34#8, 0x12#8], 3, .movCxImm16 0x1234#16, [], rfl, rfl⟩

/-- HaltedStepChangesNothing, and the halted clauses of FlagsKeptByAllOthers and HaltsOnExactlyTheseOpcodes. -/
theorem witness_halted : ∃ s : State, s.halted = true := ⟨State.reset.halt, rfl⟩

/-- StepKeepsStateInv. -/
theorem witness_StepKeepsStateInv : ∃ s t : State, StateInv s ∧ step s = .next t ∧ t ≠ s :=
  ⟨placed 0#16 [0x48#8], (((placed 0#16 [0x48#8]).setIp 1#16).setReg .ax 0xFFFF#16).setSz 0xFFFF#16,
    ⟨by decide, fun k _ _ => BitVec.getLsbD_zero, by decide, by decide, by decide, by decide, by decide, by decide,
      by decide⟩, rfl, by decide⟩

/-- Every RunsAs of the instruction statements: a Running state with the row's bytes at IP. -/
theorem witness_RunsAs :
    ∀ bytes ∈ ([[0xB8#8, 0x01#8, 0x00#8], [0xBB#8, 0xFF#8, 0xFF#8], [0xB9#8, 0x05#8, 0x00#8], [0x40#8], [0x48#8], [0x49#8],
        [0x50#8], [0x58#8], [0xF7#8, 0xE1#8], [0xF7#8, 0xE0#8], [0x81#8, 0xF9#8, 0x01#8, 0x80#8], [0x81#8, 0xF8#8],
        [0x75#8, 0xF7#8], [0xF4#8], [0xFF#8]] : List (List Byte)),
      (placed 0xFFFF#16 bytes).halted = false ∧
        (placed 0xFFFF#16 bytes).readBytes (placed 0xFFFF#16 bytes).ip bytes.length = bytes := by decide

/-- The selector hypotheses of OtherSelectorsDoNothing, each disjunct of its last clause. -/
theorem witness_OtherSelectorsDoNothing :
    ((0xE0#8 : Byte) ≠ 0xE1#8 ∧ (placed 0#16 [0xF7#8, 0xE0#8]).halted = false ∧
      (placed 0#16 [0xF7#8, 0xE0#8]).memRead8 0#16 = 0xF7#8 ∧
      (placed 0#16 [0xF7#8, 0xE0#8]).memRead8 1#16 ≠ 0xE1#8) ∧
    ((0x00#8 : Byte) ≠ 0xF9#8 ∧ (placed 0#16 [0x81#8]).memRead8 0#16 = 0x81#8 ∧
      (placed 0#16 [0x81#8]).memRead8 1#16 ≠ 0xF9#8) := by decide

/-- Both clauses of JnzMovesIpWhenZeroClear. -/
theorem witness_JnzMovesIpWhenZeroClear :
    State.reset.zf = false ∧ (State.reset.withFlags 0x40#16).zf = true := by decide

/-- UnrecognizedOpcodeHalts. -/
theorem witness_UnrecognizedOpcodeHalts :
    State.reset.halted = false ∧ State.reset.memRead8 State.reset.ip ∉ opcodeBytes := by decide

/-- AssembledJnzReachesLabel. -/
theorem witness_AssembledJnzReachesLabel :
    asmJnz 0x0006#16 0x000D#16 = some 0xF7#8 ∧ (placed 0x000D#16 [0x75#8, 0xF7#8]).halted = false ∧
      (placed 0x000D#16 [0x75#8, 0xF7#8]).zf = false ∧ (placed 0x000D#16 [0x75#8, 0xF7#8]).ip = 0x000D#16 ∧
      (placed 0x000D#16 [0x75#8, 0xF7#8]).memRead8 0x000D#16 = 0x75#8 ∧
      (placed 0x000D#16 [0x75#8, 0xF7#8]).memRead8 (0x000D#16 + 1#16) = 0xF7#8 := by decide

/-- FlagsKeptByAllOthers: an instruction that is none of the four. -/
theorem witness_FlagsKeptByAllOthers :
    ∃ i : Instr, i ≠ .incAx ∧ i ≠ .decAx ∧ i ≠ .decCx ∧ ∀ imm : Word, i ≠ .cmpCxImm16 imm :=
  ⟨.mulCx, by decide, by decide, by decide, fun imm => by simp⟩

/-- OnlyNamedWritersChangeState: a step that changes each register that can change, FLAGS and memory. -/
theorem witness_OnlyNamedWritersChangeState :
    see ((placed 0#16 [0xF7#8, 0xE1#8]).setReg .dx 1#16) (fun t => decide (t.dx ≠ 1#16)) = some true ∧
    see (placed 0#16 [0x40#8]) (fun t => decide (t.ax ≠ 0#16)) = some true ∧
    see (placed 0#16 [0xBB#8, 1#8]) (fun t => decide (t.bx ≠ 0#16)) = some true ∧
    see (placed 0#16 [0x49#8]) (fun t => decide (t.cx ≠ 0#16 ∧ t.flags ≠ 0#16)) = some true ∧
    see ((placed 0#16 [0x50#8]).setReg .ax 1#16)
      (fun t => decide (t.sp ≠ 0xFFF0#16 ∧ t.mem ≠ (placed 0#16 [0x50#8]).mem)) = some true := by decide

/-- HaltRecordWrittenOnce. -/
theorem witness_HaltRecordWrittenOnce :
    see (placed 0#16 [0xF4#8]) (fun t => decide (t.haltCause ≠ (placed 0#16 [0xF4#8]).haltCause)) = some true := by decide

/-- UnreadStateNeverFlows: a listed register, and a flag word that differs from the state's but agrees in Z. -/
theorem witness_UnreadStateNeverFlows :
    Reg.bp ∈ [Reg.bx, .dx, .si, .di, .bp] ∧
      (0x0080#16).getLsbD 6 = State.reset.flags.getLsbD 6 ∧ (0x0080#16) ≠ State.reset.flags := by decide

/-- PushedBytesAreFetched. -/
theorem witness_PushedBytesAreFetched :
    (State.reset.setReg .ax 0xF440#16).halted = false ∧
      reads [lowByte (State.reset.setReg .ax 0xF440#16).ax, highByte (State.reset.setReg .ax 0xF440#16).ax]
        = some (.incAx, [0xF4#8]) := by decide

/-- BootPlacesProgram. -/
theorem witness_BootPlacesProgram : ([0xB8#8, 0x01#8, 0x00#8, 0xF4#8] : List Byte).length ≤ 65536 := by decide

/-- ObservationDeterminesState. -/
theorem witness_ObservationDeterminesState :
    ∃ s t : State, s.mem.wf = true ∧ t.mem.wf = true ∧ ∀ o : Observable, observe s o = observe t o :=
  ⟨placed 0#16 [0x40#8], (State.reset.memWrite8 1#16 0#8).memWrite8 0#16 0x40#8, by decide, by decide, fun _ => rfl⟩

end Sys2Proof.Tests
end

namespace Sys2Proof.Machine

/-! ## FLAGS outside the four arithmetic instructions (10_state.md R113) -/

/-- JNZ answers a state with the old FLAGS on both of its paths (R480). -/
theorem exec_jnzRel8_keeps_flags (rel : Byte) (s : State) :
    ∃ t : State, exec (.jnzRel8 rel) s = .next t ∧ t.flags = s.flags := by
  cases hz : s.zf with
  | false => exact ⟨_, exec_jnzRel8_taken rel hz, setIp_flags ..⟩
  | true => exact ⟨_, exec_jnzRel8_not_taken rel hz, rfl⟩

/-- The four excluded instructions are those that call `set_sz`; each of the others is a composition of writes that each
keep FLAGS. -/
theorem exec_keeps_flags (i : Instr) (s : State) (hIncAx : i ≠ .incAx) (hDecAx : i ≠ .decAx) (hDecCx : i ≠ .decCx)
    (hCmpCx : ∀ imm : Word, i ≠ .cmpCxImm16 imm) : ∃ t : State, exec i s = .next t ∧ t.flags = s.flags := by
  cases i with
  | incAx => exact absurd rfl hIncAx
  | decAx => exact absurd rfl hDecAx
  | decCx => exact absurd rfl hDecCx
  | cmpCxImm16 imm => exact absurd rfl (hCmpCx imm)
  | movAxImm16 imm => exact ⟨_, exec_movAxImm16 imm s, setReg_flags ..⟩
  | movBxImm16 imm => exact ⟨_, exec_movBxImm16 imm s, setReg_flags ..⟩
  | movCxImm16 imm => exact ⟨_, exec_movCxImm16 imm s, setReg_flags ..⟩
  | pushAx => exact ⟨_, exec_pushAx s, push_flags ..⟩
  | popAx => exact ⟨_, exec_popAx s, by rw [setReg_flags, pop_snd_flags]⟩
  | mulCx => exact ⟨_, exec_mulCx s, by rw [setReg_flags, setReg_flags]⟩
  | f7Nop sel => exact ⟨s, exec_f7Nop sel s, rfl⟩
  | op81Nop sel => exact ⟨s, exec_op81Nop sel s, rfl⟩
  | jnzRel8 rel => exact exec_jnzRel8_keeps_flags rel s
  | hlt => exact ⟨_, exec_hlt s, halt_flags s⟩
  | unrecognized op => exact ⟨_, exec_unrecognized op s, raiseUnrecognizedOpcode_flags ..⟩

theorem hostPop_keeps_flags (s : State) : (hostPop s).2.flags = s.flags := by
  rw [hostPop_eq, pop_snd_flags]

/-- Settles O26: by cases on the instruction; a halted step answers its own state, and the host's pop is the stack unit's. -/
theorem flagsKeptByAllOthers : Obligations.FlagsKeptByAllOthers :=
  ⟨exec_keeps_flags, fun s hs => ⟨s, step_halted hs, rfl⟩, hostPop_keeps_flags⟩

end Sys2Proof.Machine

namespace Sys2Proof.Machine

/-! ## The stack round trip (20_memory.md R233) -/

/-- The load at the SP a push leaves meets both bytes the push stored, at the top of memory too. -/
theorem pop_push_fst (s : State) (v : Word) : (s.push v).pop.1 = v := by
  have hlow : (s.push v).memRead8 (s.sp - 2#16) = lowByte v := by
    rw [memRead8_push, if_neg (ne_succ _), if_pos rfl]
  have hhigh : (s.push v).memRead8 (s.sp - 2#16 + 1#16) = highByte v := by
    rw [memRead8_push, if_pos rfl]
  rw [pop_eq, push_sp, hlow, hhigh, wordOfBytes_low_high]

theorem pop_push_snd_sp (s : State) (v : Word) : (s.push v).pop.2.sp = s.sp := by
  rw [pop_snd_sp, push_sp, BitVec.sub_add_cancel]

theorem exec_popAx_after_pushAx (s : State) :
    ∃ t u : State, exec .pushAx s = .next t ∧ exec .popAx t = .next u ∧ u.ax = s.ax ∧ u.sp = s.sp :=
  ⟨_, _, exec_pushAx s, exec_popAx _, pop_push_fst s s.ax, pop_push_snd_sp s s.ax⟩

/-- Settles O21: the popped word is reassembled from the two stored bytes, and subtracting then adding 2 cancels. -/
theorem popUndoesPush : Obligations.PopUndoesPush :=
  ⟨fun s v => ⟨pop_push_fst s v, pop_push_snd_sp s v⟩, exec_popAx_after_pushAx⟩

/-! ## The fetch unit (20_memory.md R210, R211) -/

theorem fetchU8_snd_ip_toNat (s : State) : s.fetchU8.2.ip.toNat = (s.ip.toNat + 1) % 65536 :=
  BitVec.toNat_add s.ip 1#16

theorem fetchU16_fst_toNat (s : State) :
    s.fetchU16.1.toNat = (s.memRead8 s.ip).toNat + 256 * (s.memRead8 (s.ip + 1#16)).toNat := by
  rw [fetchU16_eq, toNat_wordOfBytes]

/-- Two wrapping advances by 1 are one by 2. -/
theorem fetchU16_snd_ip_toNat (s : State) : s.fetchU16.2.ip.toNat = (s.ip.toNat + 2) % 65536 := by
  have hip : s.fetchU16.2.ip = s.ip + 2#16 := BitVec.add_assoc s.ip 1#16 1#16
  rw [hip]
  exact BitVec.toNat_add s.ip 2#16

/-- Settles O32: a fetch is its byte reads and a write of IP, so the frame holds by definition. -/
theorem fetchReadsAtIp : Obligations.FetchReadsAtIp := fun s =>
  ⟨rfl, rfl, fetchU8_snd_ip_toNat s, fetchU16_fst_toNat s, rfl, fetchU16_snd_ip_toNat s⟩

end Sys2Proof.Machine

namespace Sys2Proof.Machine

/-! ## The halted step (30_encoding.md R321) -/

/-- Settles O7: the step tests the halted flag before it fetches. -/
theorem haltedStepChangesNothing : Obligations.HaltedStepChangesNothing := fun _ => step_halted

/-! ## The other selectors of 0xF7 and 0x81 (30_encoding.md R342) -/

theorem readBytes_two (s : State) (a : Word) : s.readBytes a 2 = [s.memRead8 a, s.memRead8 (a + 1#16)] := rfl

/-- Two bytes that fix a two-byte instruction, whatever bytes follow, run as it. -/
theorem runsAs_two_bytes {b0 b1 : Byte} {i : Instr} (hdecode : ∀ b2 b3 : Byte, decodeWindow b0 b1 b2 b3 = i)
    (hlength : i.length = 2) : RunsAs [b0, b1] i := by
  intro s hrunning hbytes
  obtain ⟨h0, h1⟩ : s.memRead8 s.ip = b0 ∧ s.memRead8 (s.ip + 1#16) = b1 := by
    simpa [readBytes_two] using hbytes
  rw [step_running hrunning, fetchInstr_fst, h0, h1, hdecode, hlength]
  rfl

theorem runsAs_f7Nop {sel : Byte} (h : sel ≠ 0xE1#8) : RunsAs [0xF7#8, sel] (.f7Nop sel) :=
  runsAs_two_bytes (fun b2 b3 => decodeWindow_f7Nop b2 b3 h) rfl

theorem runsAs_op81Nop {sel : Byte} (h : sel ≠ 0xF9#8) : RunsAs [0x81#8, sel] (.op81Nop sel) :=
  runsAs_two_bytes (fun b2 b3 => decodeWindow_op81Nop b2 b3 h) rfl

/-- A Running step on two bytes that run as an instruction without effect only moves IP past them. -/
theorem step_of_runsAs_nop {s : State} {b0 : Byte} {i : Instr} (hruns : RunsAs [b0, s.memRead8 (s.ip + 1#16)] i)
    (hnop : ∀ t : State, exec i t = .next t) (hrunning : s.halted = false) (h0 : s.memRead8 s.ip = b0) :
    step s = .next (s.setIp (s.ip + 2#16)) := by
  have hbytes : s.readBytes s.ip 2 = [b0, s.memRead8 (s.ip + 1#16)] := by rw [readBytes_two, h0]
  exact (hruns s hrunning hbytes).trans (hnop _)

/-- Settles O17: the selector alone tells the no-op from the implemented instruction, and the no-op's `exec` answers its
own state. -/
theorem otherSelectorsDoNothing : Obligations.OtherSelectorsDoNothing := by
  refine ⟨fun _ => runsAs_f7Nop, fun _ => runsAs_op81Nop, fun sel s => ⟨exec_f7Nop sel s, exec_op81Nop sel s⟩, ?_⟩
  rintro s hrunning (⟨h0, hsel⟩ | ⟨h0, hsel⟩)
  · exact step_of_runsAs_nop (runsAs_f7Nop hsel) (exec_f7Nop _) hrunning h0
  · exact step_of_runsAs_nop (runsAs_op81Nop hsel) (exec_op81Nop _) hrunning h0

end Sys2Proof.Machine

namespace Sys2Proof.Machine

/-! ## The load-immediate instructions (41_data_move.md R400 to R402) -/

theorem readBytes_three (s : State) (a : Word) :
    s.readBytes a 3 = [s.memRead8 a, s.memRead8 (a + 1#16), s.memRead8 (a + 2#16)] := by
  rw [readBytes_succ, readBytes_two, BitVec.add_assoc]
  rfl

/-- An opcode byte that decodes to a load of the word after it runs, on the two halves of `imm`, as the load of `imm`. -/
theorem runsAs_loadImmediate {op : Byte} {load : Word → Instr}
    (hdecode : ∀ b1 b2 b3 : Byte, decodeWindow op b1 b2 b3 = load (wordOfBytes b1 b2)) {imm : Word}
    (hlength : (load imm).length = 3) : RunsAs [op, lowByte imm, highByte imm] (load imm) := by
  intro s hrunning hbytes
  obtain ⟨hop, hlow, hhigh⟩ : s.memRead8 s.ip = op ∧ s.memRead8 (s.ip + 1#16) = lowByte imm ∧
      s.memRead8 (s.ip + 2#16) = highByte imm := by
    simpa [readBytes_three] using hbytes
  rw [step_running hrunning, fetchInstr_fst, hop, hlow, hhigh, hdecode, wordOfBytes_low_high, hlength]
  rfl

/-- An instruction whose whole effect is one register write leaves the value there and keeps FLAGS and the rest. -/
theorem exec_setReg_frame {i : Instr} {s : State} {r : Reg} {v : Word} (hexec : exec i s = .next (s.setReg r v)) :
    ∃ t : State, exec i s = .next t ∧ t.getReg r = v ∧ t.flags = s.flags ∧ RestKept [r] s t :=
  ⟨s.setReg r v, hexec, getReg_setReg_self s r v, setReg_flags s r v, restKept_setReg s r v⟩

/-- Settles O13: each load decodes to its own register write of the reassembled immediate. -/
theorem loadImmediateWritesOneRegister : Obligations.LoadImmediateWritesOneRegister := fun imm =>
  ⟨⟨runsAs_loadImmediate decodeWindow_movAx rfl, fun s => exec_setReg_frame (exec_movAxImm16 imm s)⟩,
    ⟨runsAs_loadImmediate decodeWindow_movBx rfl, fun s => exec_setReg_frame (exec_movBxImm16 imm s)⟩,
    ⟨runsAs_loadImmediate decodeWindow_movCx rfl, fun s => exec_setReg_frame (exec_movCxImm16 imm s)⟩⟩

end Sys2Proof.Machine

namespace Sys2Proof.Machine

/-! ## `set_sz` and the flag bits no step touches (42_alu.md R420) -/

theorem szOf_setSz (s : State) (v : Word) : SzOf (s.setSz v) v.toNat := by
  constructor
  · rw [zf_setSz, decide_eq_true_iff]
    exact BitVec.toNat_eq
  · rw [sf_setSz, getLsbD_15_iff]

/-- No number is both 0 and at least 0x8000. -/
theorem SzOf.not_zf_and_sf {s : State} {n : Nat} (h : SzOf s n) : ¬ (s.zf = true ∧ s.sf = true) := by
  obtain ⟨hzero, hsign⟩ := h
  rw [hzero, hsign]
  omega

/-- Four instructions call `set_sz`, on a state with the old FLAGS; each of the others keeps the whole word. -/
theorem exec_keeps_inertFlags (i : Instr) (s : State) : ∃ t : State, exec i s = .next t ∧ InertFlagsKept s t := by
  cases i with
  | incAx => exact ⟨_, exec_incAx s, inertFlagsKept_setSz _ (setReg_flags ..)⟩
  | decAx => exact ⟨_, exec_decAx s, inertFlagsKept_setSz _ (setReg_flags ..)⟩
  | decCx => exact ⟨_, exec_decCx s, inertFlagsKept_setSz _ (setReg_flags ..)⟩
  | cmpCxImm16 imm => exact ⟨_, exec_cmpCxImm16 imm s, inertFlagsKept_setSz _ rfl⟩
  | _ =>
    exact Exists.imp (fun _ => And.imp_right inertFlagsKept_of_flags_eq)
      (exec_keeps_flags _ s nofun nofun nofun nofun)

/-- A halted step answers its own state; a Running one moves IP, which is no flag, and runs an instruction. -/
theorem step_keeps_inertFlags {s t : State} (h : step s = .next t) : InertFlagsKept s t := by
  cases hs : s.halted with
  | true =>
    obtain rfl : s = t := by simpa [step_halted hs] using h
    exact inertFlagsKept_of_flags_eq rfl
  | false =>
    obtain ⟨u, hexec, hkept⟩ :=
      exec_keeps_inertFlags s.fetchInstr.1 (s.setIp (s.ip + BitVec.ofNat 16 s.fetchInstr.1.length))
    obtain rfl : u = t := by simpa [step_running hs, hexec] using h
    exact hkept

/-- Settles O15: Z and S are those of `v`, and every flag write of a step is a `set_sz`. -/
theorem setSzWritesOnlyZeroAndSign : Obligations.SetSzWritesOnlyZeroAndSign := by
  refine ⟨fun s v => ?_, fun _ _ => step_keeps_inertFlags⟩
  obtain ⟨hzero, hsign⟩ := szOf_setSz s v
  exact ⟨rfl, hzero, hsign, inertFlagsKept_setSz v rfl, (szOf_setSz s v).not_zf_and_sf⟩

/-! ## INC AX, DEC AX and DEC CX (42_alu.md R422 to R424) -/

/-- A byte that fixes a one-byte instruction, whatever bytes follow, runs as it. -/
theorem runsAs_one_byte {b0 : Byte} {i : Instr} (hdecode : ∀ b1 b2 b3 : Byte, decodeWindow b0 b1 b2 b3 = i)
    (hlength : i.length = 1) : RunsAs [b0] i := by
  intro s hrunning hbytes
  have h0 : s.memRead8 s.ip = b0 := List.head_eq_of_cons_eq hbytes
  rw [step_running hrunning, fetchInstr_fst, h0, hdecode, hlength]
  rfl

/-- Wrapping subtraction as a number (00_scope.md R31). -/
theorem toNat_sub_word (a b : Word) : (a - b).toNat = (a.toNat + 65536 - b.toNat) % 65536 := by
  rw [BitVec.toNat_sub]
  omega

/-- An instruction that writes an arithmetic result to a register and sets Z and S from it does only that. -/
theorem exec_writeResult_frame {i : Instr} {s : State} {r : Reg} {v : Word} {n : Nat}
    (hexec : exec i s = .next ((s.setReg r v).setSz v)) (hvalue : v.toNat = n) :
    ∃ t : State, exec i s = .next t ∧ (t.getReg r).toNat = n ∧ SzOf t (t.getReg r).toNat ∧ InertFlagsKept s t ∧
      RestKept [r] s t := by
  have hresult : ((s.setReg r v).setSz v).getReg r = v := by rw [getReg_setSz, getReg_setReg_self]
  refine ⟨_, hexec, ?_, ?_, inertFlagsKept_setSz v (setReg_flags ..), restKept_setSz v (restKept_setReg s r v)⟩
  · rw [hresult, hvalue]
  · rw [hresult]
    exact szOf_setSz _ v

/-- Settles O14: each of the three is one `writeResultSz`, and taking 1 away is adding 65535 modulo 65536. -/
theorem incrementDecrementWrap : Obligations.IncrementDecrementWrap :=
  ⟨⟨runsAs_one_byte decodeWindow_incAx rfl,
      fun s => exec_writeResult_frame (exec_incAx s) (BitVec.toNat_add s.ax 1#16)⟩,
    ⟨runsAs_one_byte decodeWindow_decAx rfl,
      fun s => exec_writeResult_frame (exec_decAx s) (toNat_sub_word s.ax 1#16)⟩,
    ⟨runsAs_one_byte decodeWindow_decCx rfl,
      fun s => exec_writeResult_frame (exec_decCx s) (toNat_sub_word s.cx 1#16)⟩⟩

/-! ## MUL CX (42_alu.md R425) -/

/-- The product of two words is below 2 ^ 32, so the widened product does not wrap. -/
theorem toNat_mulWide (a b : Word) : (mulWide a b).toNat = a.toNat * b.toNat := by
  have hfits : a.toNat * b.toNat < 2 ^ 16 * 2 ^ 16 := Nat.mul_lt_mul'' a.isLt b.isLt
  simpa [mulWide] using hfits

/-- The two halves hold the whole product. -/
theorem toNat_productHigh_low (p : DWord) : (productHigh p).toNat * 65536 + (productLow p).toNat = p.toNat := by
  have hp := p.isLt
  simp only [productHigh, productLow, BitVec.extractLsb'_toNat, Nat.shiftRight_eq_div_pow]
  omega

theorem restKept_refl (written : List Reg) (s : State) : RestKept written s s :=
  ⟨rfl, regsKept_refl written s, ⟨rfl, rfl, rfl, rfl, rfl⟩, memKeptOutside_of_mem_eq _ rfl⟩

/-- One more write to a register the frame already lists. -/
theorem restKept_setReg_of_mem {written : List Reg} {s t : State} {r : Reg} (v : Word) (hr : r ∈ written)
    (h : RestKept written s t) : RestKept written s (t.setReg r v) := by
  obtain ⟨hip, hregs, hstatus, hmem⟩ := h
  refine ⟨by rw [setReg_ip, hip], fun q hq => ?_, by simpa [StatusKept] using hstatus, fun a ha => ?_⟩
  · rw [getReg_setReg_other t v (ne_of_mem_of_not_mem hr hq).symm, hregs q hq]
  · rw [memRead8_setReg, hmem a ha]

/-- Settles O16: the halves of an exact product go to DX and AX. -/
theorem multiplyWritesExactProduct : Obligations.MultiplyWritesExactProduct := by
  refine ⟨runsAs_two_bytes decodeWindow_mulCx rfl, fun s => ⟨_, exec_mulCx s, ?_, ?_, ?_⟩⟩
  · exact (toNat_productHigh_low _).trans (toNat_mulWide s.ax s.cx)
  · rw [setReg_flags, setReg_flags]
  · exact restKept_setReg_of_mem _ (by decide) (restKept_setReg_of_mem _ (by decide) (restKept_refl _ s))

/-! ## CMP CX, imm16 (42_alu.md R427) -/

theorem readBytes_four (s : State) (a : Word) :
    s.readBytes a 4 = [s.memRead8 a, s.memRead8 (a + 1#16), s.memRead8 (a + 2#16), s.memRead8 (a + 3#16)] := by
  rw [readBytes_succ, readBytes_three, BitVec.add_assoc, BitVec.add_assoc]
  rfl

theorem runsAs_cmpCxImm16 (imm : Word) :
    RunsAs [0x81#8, 0xF9#8, lowByte imm, highByte imm] (.cmpCxImm16 imm) := by
  intro s hrunning hbytes
  obtain ⟨hop, hsel, hlow, hhigh⟩ : s.memRead8 s.ip = 0x81#8 ∧ s.memRead8 (s.ip + 1#16) = 0xF9#8 ∧
      s.memRead8 (s.ip + 2#16) = lowByte imm ∧ s.memRead8 (s.ip + 3#16) = highByte imm := by
    simpa [readBytes_four] using hbytes
  rw [step_running hrunning, fetchInstr_fst, hop, hsel, hlow, hhigh, decodeWindow_cmpCx, wordOfBytes_low_high]
  rfl

/-- Settles O18: the whole effect is a `set_sz` of the wrapped difference. -/
theorem compareSetsFlagsOnly : Obligations.CompareSetsFlagsOnly := by
  refine fun imm => ⟨runsAs_cmpCxImm16 imm, fun s => ⟨_, exec_cmpCxImm16 imm s, ?_, ?_, ?_⟩⟩
  · rw [← toNat_sub_word]
    exact szOf_setSz s _
  · exact inertFlagsKept_setSz _ rfl
  · exact restKept_setSz _ (restKept_refl [] s)

end Sys2Proof.Machine

namespace Sys2Proof.Machine

/-! ## JNZ rel8 (44_control.md R480) -/

theorem runsAs_jnzRel8 (rel : Byte) : RunsAs [0x75#8, rel] (.jnzRel8 rel) :=
  runsAs_two_bytes (decodeWindow_jnz rel) rfl

/-- The sign-extended operand is the signed operand modulo 65536. -/
theorem toNat_relOffset (rel : Byte) : ((relOffset rel).toNat : Int) = rel.toInt % 65536 :=
  Int.toNat_of_nonneg (Int.emod_nonneg _ (by decide))

/-- The jump target as a number: the wrapping sum adds the operand as a signed number. -/
theorem toNat_add_relOffset (ip : Word) (rel : Byte) :
    ((ip + relOffset rel).toNat : Int) = ((ip.toNat : Int) + rel.toInt) % 65536 := by
  rw [BitVec.toNat_add, Int.natCast_emod, Int.natCast_add, toNat_relOffset]
  exact Int.add_emod_emod ..

theorem regsKept_setIp (s : State) (v : Word) : RegsKept [] s (s.setIp v) := fun r _ => getReg_setIp s v r

theorem statusKept_setIp (s : State) (v : Word) : StatusKept s (s.setIp v) := ⟨rfl, rfl, rfl, rfl, rfl⟩

/-- Settles O22: a taken jump is one write of IP, which keeps all the rest; one not taken answers its own state. -/
theorem jnzMovesIpWhenZeroClear : Obligations.JnzMovesIpWhenZeroClear := by
  refine fun rel => ⟨runsAs_jnzRel8 rel, fun s => ?_⟩
  cases hz : s.zf with
  | false =>
    exact ⟨_, exec_jnzRel8_taken rel hz, nofun, fun _ => toNat_add_relOffset s.ip rel, setIp_flags .., regsKept_setIp s _,
      statusKept_setIp s _, memKeptOutside_of_mem_eq _ (setIp_mem ..)⟩
  | true =>
    obtain ⟨hip, hregs, hstatus, hmem⟩ := restKept_refl [] s
    exact ⟨s, exec_jnzRel8_not_taken rel hz, fun _ => hip, nofun, rfl, hregs, hstatus, hmem⟩

end Sys2Proof.Machine

namespace Sys2Proof.Machine

/-! ## The decoder and the encoder are inverse (30_encoding.md R300, R340 to R342) -/

/-- The instruction `decode` reads at the head of a byte string; bytes past its end count as 0x00 and are not looked at
when the string is long enough. -/
def firstInstr (bytes : List Byte) : Instr :=
  decodeWindow (bytes.getD 0 0#8) (bytes.getD 1 0#8) (bytes.getD 2 0#8) (bytes.getD 3 0#8)

theorem encode_length (i : Instr) : (encode i).length = i.length ∧ 1 ≤ i.length ∧ i.length ≤ 4 := by
  cases i with
  | movAxImm16 imm => exact Laws.EncodeLength.movAxImm16 imm
  | movBxImm16 imm => exact Laws.EncodeLength.movBxImm16 imm
  | movCxImm16 imm => exact Laws.EncodeLength.movCxImm16 imm
  | incAx => exact Laws.EncodeLength.incAx
  | decAx => exact Laws.EncodeLength.decAx
  | decCx => exact Laws.EncodeLength.decCx
  | pushAx => exact Laws.EncodeLength.pushAx
  | popAx => exact Laws.EncodeLength.popAx
  | mulCx => exact Laws.EncodeLength.mulCx
  | f7Nop sel => exact Laws.EncodeLength.f7Nop sel
  | cmpCxImm16 imm => exact Laws.EncodeLength.cmpCxImm16 imm
  | op81Nop sel => exact Laws.EncodeLength.op81Nop sel
  | jnzRel8 rel => exact Laws.EncodeLength.jnzRel8 rel
  | hlt => exact Laws.EncodeLength.hlt
  | unrecognized op => exact Laws.EncodeLength.unrecognized op

/-- `decode` answers exactly when the string holds the whole of its first instruction, and then drops its bytes. -/
theorem decode_eq_ok_iff {bytes rest : List Byte} {i : Instr} :
    decode bytes = .ok (i, rest) ↔ firstInstr bytes = i ∧ i.length ≤ bytes.length ∧ rest = bytes.drop i.length := by
  constructor
  · intro h
    obtain ⟨b0, tail, rfl, rfl, hlength, rfl⟩ := decode_ok_cases h
    exact ⟨rfl, hlength, rfl⟩
  · rintro ⟨rfl, hlength, rfl⟩
    cases bytes with
    | nil => exact absurd hlength (by decide)
    | cons b0 tail => exact decode_cons_ok hlength

/-- Reading at the head of an encoding gives the instruction back, whatever bytes follow. -/
theorem firstInstr_encode_append {i : Instr} (rest : List Byte) (h : i.wellFormed = true) :
    firstInstr (encode i ++ rest) = i := by
  cases i with
  | movAxImm16 imm => exact congrArg Instr.movAxImm16 (wordOfBytes_low_high imm)
  | movBxImm16 imm => exact congrArg Instr.movBxImm16 (wordOfBytes_low_high imm)
  | movCxImm16 imm => exact congrArg Instr.movCxImm16 (wordOfBytes_low_high imm)
  | cmpCxImm16 imm => exact congrArg Instr.cmpCxImm16 (wordOfBytes_low_high imm)
  | f7Nop sel =>
    have hsel : sel ≠ 0xE1#8 := by simpa [Instr.wellFormed] using h
    exact decodeWindow_f7Nop _ _ hsel
  | op81Nop sel =>
    have hsel : sel ≠ 0xF9#8 := by simpa [Instr.wellFormed] using h
    exact decodeWindow_op81Nop _ _ hsel
  | unrecognized op =>
    have hop : op ∉ opcodeBytes := by simpa [Instr.wellFormed] using h
    exact decodeWindow_unrecognized _ _ _ hop
  | incAx | decAx | decCx | pushAx | popAx | mulCx | jnzRel8 | hlt => rfl

/-- Every window is read as a well-formed instruction, and the bytes consumed are its encoding. -/
theorem encode_decodeWindow (b0 b1 b2 b3 : Byte) :
    (decodeWindow b0 b1 b2 b3).wellFormed = true ∧
      encode (decodeWindow b0 b1 b2 b3) = [b0, b1, b2, b3].take (decodeWindow b0 b1 b2 b3).length := by
  apply decodeWindow_cases (motive := fun b0 b1 b2 b3 i =>
    i.wellFormed = true ∧ encode i = [b0, b1, b2, b3].take i.length)
  case f7Nop => exact fun b1 _ _ hsel => ⟨by simpa [Instr.wellFormed] using hsel, rfl⟩
  case op81Nop => exact fun b1 _ _ hsel => ⟨by simpa [Instr.wellFormed] using hsel, rfl⟩
  case unrecognized => exact fun b0 _ _ _ hop => ⟨by simpa [Instr.wellFormed] using hop, rfl⟩
  all_goals intros; simp [Instr.wellFormed, encode, Instr.length]

/-- At most four bytes of a string are the first four bytes of the string, padded. -/
theorem take_padded {bytes : List Byte} {n : Nat} (hbytes : n ≤ bytes.length) (hfour : n ≤ 4) :
    [bytes.getD 0 0#8, bytes.getD 1 0#8, bytes.getD 2 0#8, bytes.getD 3 0#8].take n = bytes.take n := by
  have hpad : [bytes.getD 0 0#8, bytes.getD 1 0#8, bytes.getD 2 0#8, bytes.getD 3 0#8] =
      (bytes ++ List.replicate 4 0#8).take 4 := by
    match bytes with
    | [] | [_] | [_, _] | [_, _, _] | _ :: _ :: _ :: _ :: _ => rfl
  rw [hpad, List.take_take, min_eq_left hfour, List.take_append_of_le_length hbytes]

/-- Settles O1: the first instruction of the string is the encoded one, whose length is its encoding's. -/
theorem decodeInvertsEncode : Obligations.DecodeInvertsEncode := by
  intro i rest hwf
  obtain ⟨hlength, -, -⟩ := encode_length i
  refine decode_eq_ok_iff.mpr ⟨firstInstr_encode_append rest hwf, ?_, ?_⟩
  · simp [hlength]
  · rw [← hlength, List.drop_left]

/-- Settles O2: the bytes consumed are the encoding of the instruction read. -/
theorem encodeInvertsDecode : Obligations.EncodeInvertsDecode := by
  intro bytes rest i hdecode
  obtain ⟨rfl, hlength, rfl⟩ := decode_eq_ok_iff.mp hdecode
  obtain ⟨-, -, hfour⟩ := encode_length (firstInstr bytes)
  obtain ⟨hwf, hbytes⟩ :=
    encode_decodeWindow (bytes.getD 0 0#8) (bytes.getD 1 0#8) (bytes.getD 2 0#8) (bytes.getD 3 0#8)
  refine ⟨hwf, ?_⟩
  rw [show encode (firstInstr bytes) = _ from hbytes.trans (take_padded hlength hfour)]
  exact List.take_append_drop ..

/-- The length table of R300 and R340. -/
theorem length_decodeWindow (b0 b1 b2 b3 : Byte) :
    (decodeWindow b0 b1 b2 b3).length =
      (if b0 = 0xB8#8 ∨ b0 = 0xBB#8 ∨ b0 = 0xB9#8 then 3
       else if b0 = 0x81#8 then (if b1 = 0xF9#8 then 4 else 2)
       else if b0 = 0xF7#8 ∨ b0 = 0x75#8 then 2
       else 1) := by
  apply decodeWindow_cases (motive := fun b0 b1 _ _ i => i.length =
    (if b0 = 0xB8#8 ∨ b0 = 0xBB#8 ∨ b0 = 0xB9#8 then 3
     else if b0 = 0x81#8 then (if b1 = 0xF9#8 then 4 else 2)
     else if b0 = 0xF7#8 ∨ b0 = 0x75#8 then 2
     else 1))
  case op81Nop => exact fun b1 _ _ hsel => by simp [Instr.length, hsel]
  case unrecognized =>
    intro b0 _ _ _ hop
    obtain ⟨hMovAx, hMovBx, hMovCx, -, -, -, -, -, hF7, h81, hJnz, -⟩ := not_mem_opcodeBytes.mp hop
    simp [Instr.length, hMovAx, hMovBx, hMovCx, hF7, h81, hJnz]
  all_goals intros; simp [Instr.length]

/-- Settles O3: no instruction is longer than four bytes, so four always hold one. -/
theorem lengthFromFirstBytes : Obligations.LengthFromFirstBytes := by
  intro b0 b1 b2 b3 rest
  obtain ⟨-, -, hfour⟩ := encode_length (decodeWindow b0 b1 b2 b3)
  exact ⟨_, decode_eq_ok_iff.mpr ⟨rfl, hfour.trans (Nat.le_add_left 4 rest.length), rfl⟩,
    length_decodeWindow b0 b1 b2 b3⟩

/-! ## The opcode bytes outside the map (30_encoding.md R341) -/

theorem decodeWindow_eq_unrecognized_iff (b0 b1 b2 b3 : Byte) :
    decodeWindow b0 b1 b2 b3 = .unrecognized b0 ↔ b0 ∉ opcodeBytes := by
  refine ⟨fun h => ?_, decodeWindow_unrecognized b1 b2 b3⟩
  have hwf := (encode_decodeWindow b0 b1 b2 b3).left
  simpa [h, Instr.wellFormed] using hwf

theorem not_mem_opcodeBytes_iff_ranges : ∀ b0 : Byte, b0 ∉ opcodeBytes ↔
    (b0.toNat ≤ 0x3F ∨ (0x41 ≤ b0.toNat ∧ b0.toNat ≤ 0x47) ∨ (0x4A ≤ b0.toNat ∧ b0.toNat ≤ 0x4F) ∨
      (0x51 ≤ b0.toNat ∧ b0.toNat ≤ 0x57) ∨ (0x59 ≤ b0.toNat ∧ b0.toNat ≤ 0x74) ∨
      (0x76 ≤ b0.toNat ∧ b0.toNat ≤ 0x80) ∨ (0x82 ≤ b0.toNat ∧ b0.toNat ≤ 0xB7) ∨ b0.toNat = 0xBA ∨
      (0xBC ≤ b0.toNat ∧ b0.toNat ≤ 0xF3) ∨ b0.toNat = 0xF5 ∨ b0.toNat = 0xF6 ∨ 0xF8 ≤ b0.toNat) := by
  intro b0
  have := b0.isLt
  simp only [not_mem_opcodeBytes, ne_eq, ← BitVec.toNat_inj, BitVec.toNat_ofNat]
  omega

/-- Settles O4: both the ranges and the count are of the complement of the twelve opcode bytes. -/
theorem unrecognizedOpcodeRanges : Obligations.UnrecognizedOpcodeRanges := by
  refine ⟨fun b0 b1 b2 b3 =>
    (decodeWindow_eq_unrecognized_iff b0 b1 b2 b3).trans (not_mem_opcodeBytes_iff_ranges b0), ?_⟩
  decide +kernel

end Sys2Proof.Machine

namespace Sys2Proof.Machine

/-! ## The instruction a step fetches (30_encoding.md R320) -/

theorem readBytes_add (s : State) (a : Word) (m n : Nat) :
    s.readBytes a (m + n) = s.readBytes a m ++ s.readBytes (a + BitVec.ofNat 16 m) n := by
  induction m generalizing a with
  | zero => simp [State.readBytes]
  | succ m ih =>
    have hnext : a + 1#16 + BitVec.ofNat 16 m = a + BitVec.ofNat 16 (m + 1) := by
      rw [BitVec.add_assoc, Nat.add_comm m 1, BitVec.ofNat_add]
    rw [Nat.succ_add, readBytes_succ, readBytes_succ, ih, hnext, List.cons_append]

theorem take_readBytes (s : State) (a : Word) {m n : Nat} (h : n ≤ m) : (s.readBytes a m).take n = s.readBytes a n := by
  obtain ⟨k, rfl⟩ := Nat.exists_eq_add_of_le h
  rw [readBytes_add, List.take_left' (length_readBytes ..)]

/-- The four bytes a step looks at, as a byte string. -/
theorem fetchInstr_fst_eq_firstInstr (s : State) : s.fetchInstr.1 = firstInstr (s.readBytes s.ip 4) := by
  rw [readBytes_four]
  rfl

/-- A step fetches the instruction whose encoding lies at IP, and no other. -/
theorem fetchInstr_fst_eq_iff {s : State} {i : Instr} :
    s.fetchInstr.1 = i ↔ i.wellFormed = true ∧ s.readBytes s.ip i.length = encode i := by
  constructor
  · rintro rfl
    obtain ⟨-, -, hfour⟩ := encode_length s.fetchInstr.1
    obtain ⟨hwf, hbytes⟩ := encode_decodeWindow (s.memRead8 s.ip) (s.memRead8 (s.ip + 1#16)) (s.memRead8 (s.ip + 2#16))
      (s.memRead8 (s.ip + 3#16))
    refine ⟨hwf, ?_⟩
    rw [fetchInstr_fst, hbytes, ← readBytes_four, ← fetchInstr_fst, take_readBytes _ _ hfour]
  · rintro ⟨hwf, hbytes⟩
    obtain ⟨-, -, hfour⟩ := encode_length i
    obtain ⟨extra, hextra⟩ := Nat.exists_eq_add_of_le hfour
    rw [fetchInstr_fst_eq_firstInstr, hextra, readBytes_add, hbytes, firstInstr_encode_append _ hwf]

/-- A well-formed instruction's encoding runs as the instruction. -/
theorem runsAs_encode {i : Instr} (hwf : i.wellFormed = true) : RunsAs (encode i) i := by
  obtain ⟨hlength, -, -⟩ := encode_length i
  intro s hrunning hbytes
  rw [hlength] at hbytes ⊢
  rw [step_running hrunning, fetchInstr_fst_eq_iff.mpr ⟨hwf, hbytes⟩]

/-- Settles O6: the bytes `decode` consumed are the encoding of its instruction, and it runs as that. -/
theorem stepRunsDecodedInstruction : Obligations.StepRunsDecodedInstruction := by
  intro s n i rest hrunning hdecode
  obtain ⟨hlength, -, -⟩ := encode_length i
  obtain ⟨hwf, hbytes⟩ := encodeInvertsDecode _ _ _ hdecode
  obtain rfl : i.length + rest.length = n := by
    simpa [hlength] using congrArg List.length hbytes
  rw [readBytes_add] at hbytes
  obtain ⟨hhead, -⟩ := List.append_inj hbytes (by simp [hlength])
  rw [← hlength]
  exact runsAs_encode hwf s hrunning (by rw [hlength, hhead])

/-- The bytes a push leaves at its SP. -/
theorem readBytes_push (s : State) (v : Word) : (s.push v).readBytes (s.sp - 2#16) 2 = [lowByte v, highByte v] := by
  rw [readBytes_two, memRead8_push, memRead8_push, if_neg (ne_succ _), if_pos rfl, if_pos rfl]

theorem readBytes_setIp (s : State) (target a : Word) (n : Nat) : (s.setIp target).readBytes a n = s.readBytes a n := by
  induction n generalizing a with
  | zero => rfl
  | succ n ih => rw [readBytes_succ, readBytes_succ, memRead8_setIp, ih]

/-- Settles O34: the pushed bytes are those a fetch at the new SP reads. -/
theorem pushedBytesAreFetched : Obligations.PushedBytesAreFetched := by
  intro s i rest hrunning hdecode
  have hbytes : ((s.push s.ax).setIp (s.push s.ax).sp).readBytes (s.push s.ax).sp 2 =
      [lowByte s.ax, highByte s.ax] := by
    rw [readBytes_setIp, push_sp, readBytes_push]
  exact ⟨s.push s.ax, exec_pushAx s,
    stepRunsDecodedInstruction ((s.push s.ax).setIp (s.push s.ax).sp) 2 i rest hrunning (hbytes ▸ hdecode)⟩

/-! ## The step and its pseudocode (30_encoding.md R320) -/

@[simp] theorem setIp_setIp (s : State) (a b : Word) : (s.setIp a).setIp b = s.setIp b := rfl

/-- Settles O8: row by row of the opcode map; the operand bytes fetched one by one are those of the window, and IP ends
at the same place. -/
theorem stepFollowsDispatchPseudocode : Obligations.StepFollowsDispatchPseudocode := by
  intro s
  cases hs : s.halted with
  | true => rw [step_halted hs, pseudoStep, if_pos hs]
  | false =>
    apply step_running_cases hs (fun o => o = .next (pseudoStep s))
    case unrecognized =>
      intro hop
      obtain ⟨h1, h2, h3, h4, h5, h6, h7, h8, h9, h10, h11, h12⟩ := not_mem_opcodeBytes.mp hop
      simp [pseudoStep, hs, fetchU8_eq, h1, h2, h3, h4, h5, h6, h7, h8, h9, h10, h11, h12]
    case mulCx | f7Nop | cmpCx | op81Nop =>
      intro hop hsel
      simp [pseudoStep, pseudoF7, pseudo81, hs, hop, hsel, fetchU8_eq, fetchU16_eq, BitVec.add_assoc]
    case jnz =>
      intro hop
      simp [pseudoStep, hs, hop, fetchU8_eq, exec_jnzRel8, zf_eq, relOffset, BitVec.add_assoc]
    all_goals
      intro hop
      simp [pseudoStep, hs, hop, fetchU8_eq, fetchU16_eq, BitVec.add_assoc]

/-- Settles O9: the pseudocode names the state the step answers. -/
theorem everyStepCompletes : Obligations.EveryStepCompletes :=
  fun s => ⟨pseudoStep s, stepFollowsDispatchPseudocode s⟩

end Sys2Proof.Machine

namespace Sys2Proof.Machine

/-! ## The state invariant (10_state.md R101, R112, R121, R122)

Each operation of an instruction keeps `StateInv`: those that leave the halt record and IP alone in every state, a move
of IP and the two halting primitives from a Running one. -/

/-- Settles O11: every clause is a fact about the constants of reset. -/
theorem resetMeetsStateInv : Obligations.ResetMeetsStateInv :=
  ⟨rfl, fun _ _ _ => BitVec.getLsbD_zero, by decide, by decide, by decide, by decide, fun _ => ⟨rfl, rfl⟩, nofun,
    ⟨rfl, rfl, rfl⟩⟩

/-- A Running core has recorded no halt. -/
theorem StateInv.running_record {s : State} (h : StateInv s) (hrunning : s.halted = false) :
    s.haltCause = 0#2 ∧ s.diagValid = false := by
  have hcause : s.haltCause = 0#2 := by
    simpa [hrunning] using h.haltedIffCause
  refine ⟨hcause, ?_⟩
  simpa [hcause, haltCauseUnrecognized] using h.latchedIffUnrecognized

/-- SI, DI and BP are the registers the invariant speaks of. -/
theorem StateInv.setReg {s : State} (h : StateInv s) {r : Reg} (v : Word) (hr : r ∉ [Reg.si, .di, .bp]) :
    StateInv (s.setReg r v) := by
  refine ⟨by simpa using h.memCanonical, by simpa using h.inertFlagsClear, by simpa using h.notZeroAndSign,
    by simpa using h.causeLegal, by simpa using h.haltedIffCause, by simpa using h.latchedIffUnrecognized,
    by simpa using h.latchClear, by simpa using h.latchNames, ?_⟩
  cases r with
  | si | di | bp => simp at hr
  | ax | bx | cx | dx | sp => exact h.unwrittenRegs

theorem StateInv.setSz {s : State} (h : StateInv s) (v : Word) : StateInv (s.setSz v) :=
  ⟨h.memCanonical, fun k h6 h7 => (inertFlagsKept_setSz v rfl k h6 h7).trans (h.inertFlagsClear k h6 h7),
    (szOf_setSz s v).not_zf_and_sf, h.causeLegal, h.haltedIffCause, h.latchedIffUnrecognized, h.latchClear,
    h.latchNames, h.unwrittenRegs⟩

theorem StateInv.memWrite16 {s : State} (h : StateInv s) (a v : Word) : StateInv (s.memWrite16 a v) :=
  ⟨wf_memWrite16 a v h.memCanonical, h.inertFlagsClear, h.notZeroAndSign, h.causeLegal, h.haltedIffCause,
    h.latchedIffUnrecognized, h.latchClear, h.latchNames, h.unwrittenRegs⟩

theorem StateInv.push {s : State} (h : StateInv s) (v : Word) : StateInv (s.push v) :=
  (h.setReg _ (by decide)).memWrite16 _ v

/-- IP matters to the invariant through the latch, which a Running core has not written. -/
theorem StateInv.setIp {s : State} (h : StateInv s) (hrunning : s.halted = false) (target : Word) :
    StateInv (s.setIp target) := by
  obtain ⟨-, hvalid⟩ := h.running_record hrunning
  exact ⟨h.memCanonical, h.inertFlagsClear, h.notZeroAndSign, h.causeLegal, h.haltedIffCause, h.latchedIffUnrecognized,
    h.latchClear, fun hlatched => absurd hlatched (by simp [hvalid]), h.unwrittenRegs⟩

theorem StateInv.halt {s : State} (h : StateInv s) (hrunning : s.halted = false) : StateInv s.halt := by
  obtain ⟨-, hvalid⟩ := h.running_record hrunning
  refine ⟨h.memCanonical, h.inertFlagsClear, h.notZeroAndSign, (by decide : haltCauseHlt ≠ 3#2), ?_, ?_, h.latchClear,
    h.latchNames, h.unwrittenRegs⟩
  · simp [haltCauseHlt]
  · simp [hvalid, haltCauseHlt, haltCauseUnrecognized]

theorem StateInv.raiseUnrecognizedOpcode {s : State} (h : StateInv s) {op : Byte} (hop : op ∉ opcodeBytes) :
    StateInv (s.raiseUnrecognizedOpcode op (s.ip - 1#16)) := by
  refine ⟨h.memCanonical, h.inertFlagsClear, h.notZeroAndSign, (by decide : haltCauseUnrecognized ≠ 3#2), ?_, ?_, nofun,
    fun _ => ⟨hop, (BitVec.sub_add_cancel ..).symm⟩, h.unwrittenRegs⟩
  · simp [haltCauseUnrecognized]
  · simp

/-- What a well-formed instruction answers from a Running state meets the invariant if that state does. -/
theorem StateInv.exec {s : State} (h : StateInv s) (hrunning : s.halted = false) {i : Instr}
    (hwf : i.wellFormed = true) : ∃ t : State, exec i s = .next t ∧ StateInv t := by
  cases i with
  | movAxImm16 imm => exact ⟨_, exec_movAxImm16 imm s, h.setReg _ (by decide)⟩
  | movBxImm16 imm => exact ⟨_, exec_movBxImm16 imm s, h.setReg _ (by decide)⟩
  | movCxImm16 imm => exact ⟨_, exec_movCxImm16 imm s, h.setReg _ (by decide)⟩
  | incAx => exact ⟨_, exec_incAx s, (h.setReg _ (by decide)).setSz _⟩
  | decAx => exact ⟨_, exec_decAx s, (h.setReg _ (by decide)).setSz _⟩
  | decCx => exact ⟨_, exec_decCx s, (h.setReg _ (by decide)).setSz _⟩
  | pushAx => exact ⟨_, exec_pushAx s, h.push _⟩
  | popAx => exact ⟨_, exec_popAx s, (h.setReg (r := .sp) _ (by decide)).setReg _ (by decide)⟩
  | mulCx => exact ⟨_, exec_mulCx s, (h.setReg _ (by decide)).setReg _ (by decide)⟩
  | f7Nop sel => exact ⟨s, exec_f7Nop sel s, h⟩
  | cmpCxImm16 imm => exact ⟨_, exec_cmpCxImm16 imm s, h.setSz _⟩
  | op81Nop sel => exact ⟨s, exec_op81Nop sel s, h⟩
  | jnzRel8 rel =>
    cases hz : s.zf with
    | false => exact ⟨_, exec_jnzRel8_taken rel hz, h.setIp hrunning _⟩
    | true => exact ⟨s, exec_jnzRel8_not_taken rel hz, h⟩
  | hlt => exact ⟨_, exec_hlt s, h.halt hrunning⟩
  | unrecognized op =>
    exact ⟨_, exec_unrecognized op s, h.raiseUnrecognizedOpcode (by simpa [Instr.wellFormed] using hwf)⟩

theorem eq_of_step_halted {s t : State} (hhalted : s.halted = true) (hstep : step s = .next t) : t = s := by
  rw [step_halted hhalted] at hstep
  exact (Host.Outcome.next.inj hstep).symm

/-- What holds of the state the fetched instruction answers, holds of the state a Running step answers. -/
theorem of_step_running {s t : State} {P : State → Prop} (hrunning : s.halted = false) (hstep : step s = .next t)
    (h : ∃ u : State, exec s.fetchInstr.1 (s.setIp (s.ip + BitVec.ofNat 16 s.fetchInstr.1.length)) = .next u ∧ P u) :
    P t := by
  obtain ⟨u, hu, hP⟩ := h
  rw [step_running hrunning, hu] at hstep
  obtain rfl := Host.Outcome.next.inj hstep
  exact hP

/-- Settles O10: a halted step answers its own state; a Running one moves IP and runs a well-formed instruction, and
both keep the invariant. -/
theorem stepKeepsStateInv : Obligations.StepKeepsStateInv := by
  intro s t h hstep
  cases hs : s.halted with
  | true => rwa [eq_of_step_halted hs hstep]
  | false =>
    obtain ⟨hwf, -⟩ := fetchInstr_fst_eq_iff.mp (rfl : s.fetchInstr.1 = _)
    have hfetched : StateInv (s.setIp (s.ip + BitVec.ofNat 16 s.fetchInstr.1.length)) := h.setIp hs _
    exact of_step_running hs hstep (hfetched.exec hs hwf)

end Sys2Proof.Machine

namespace Sys2Proof.Machine

/-! ## What no instruction reads (10_state.md, the tables of readers) -/

/-- A relation between states that an instruction cannot tell apart: related states agree on all that is read, and every
operation leaves related states related. -/
structure Indistinguishable (R : State → State → Prop) : Prop where
  reads : ∀ {s t : State}, R s t → t.halted = s.halted ∧ t.ip = s.ip ∧ t.ax = s.ax ∧ t.cx = s.cx ∧ t.sp = s.sp ∧
    t.zf = s.zf ∧ t.mem = s.mem
  setReg : ∀ {s t : State} (q : Reg) (v : Word), R s t → R (s.setReg q v) (t.setReg q v)
  setIp : ∀ {s t : State} (target : Word), R s t → R (s.setIp target) (t.setIp target)
  setSz : ∀ {s t : State} (v : Word), R s t → R (s.setSz v) (t.setSz v)
  memWrite8 : ∀ {s t : State} (a : Word) (b : Byte), R s t → R (s.memWrite8 a b) (t.memWrite8 a b)
  halt : ∀ {s t : State}, R s t → R s.halt t.halt
  raise : ∀ {s t : State} (op : Byte) (addr : Word), R s t →
    R (s.raiseUnrecognizedOpcode op addr) (t.raiseUnrecognizedOpcode op addr)

theorem Indistinguishable.exec {R : State → State → Prop} (hR : Indistinguishable R) (i : Instr) {s t : State}
    (h : R s t) : ∃ s' t' : State, exec i s = .next s' ∧ exec i t = .next t' ∧ R s' t' := by
  obtain ⟨-, hip, hax, hcx, hsp, hzf, hmem⟩ := hR.reads h
  cases i with
  | movAxImm16 imm => exact ⟨_, _, exec_movAxImm16 imm s, exec_movAxImm16 imm t, hR.setReg _ _ h⟩
  | movBxImm16 imm => exact ⟨_, _, exec_movBxImm16 imm s, exec_movBxImm16 imm t, hR.setReg _ _ h⟩
  | movCxImm16 imm => exact ⟨_, _, exec_movCxImm16 imm s, exec_movCxImm16 imm t, hR.setReg _ _ h⟩
  | incAx => exact ⟨_, _, exec_incAx s, exec_incAx t, hax ▸ hR.setSz _ (hR.setReg _ _ h)⟩
  | decAx => exact ⟨_, _, exec_decAx s, exec_decAx t, hax ▸ hR.setSz _ (hR.setReg _ _ h)⟩
  | decCx => exact ⟨_, _, exec_decCx s, exec_decCx t, hcx ▸ hR.setSz _ (hR.setReg _ _ h)⟩
  | pushAx =>
    refine ⟨_, _, exec_pushAx s, exec_pushAx t, ?_⟩
    rw [push_eq, push_eq, hax, hsp]
    exact hR.memWrite8 _ _ (hR.memWrite8 _ _ (hR.setReg _ _ h))
  | popAx =>
    have hpopped : t.pop.1 = s.pop.1 := by
      rw [pop_eq, pop_eq, hsp, memRead8_of_mem_eq hmem, memRead8_of_mem_eq hmem]
    refine ⟨_, _, exec_popAx s, exec_popAx t, ?_⟩
    show R ((s.setReg .sp (s.sp + 2#16)).setReg .ax s.pop.1) ((t.setReg .sp (t.sp + 2#16)).setReg .ax t.pop.1)
    rw [hpopped, hsp]
    exact hR.setReg _ _ (hR.setReg _ _ h)
  | mulCx =>
    refine ⟨_, _, exec_mulCx s, exec_mulCx t, ?_⟩
    rw [hax, hcx]
    exact hR.setReg _ _ (hR.setReg _ _ h)
  | f7Nop sel => exact ⟨s, t, exec_f7Nop sel s, exec_f7Nop sel t, h⟩
  | cmpCxImm16 imm => exact ⟨_, _, exec_cmpCxImm16 imm s, exec_cmpCxImm16 imm t, hcx ▸ hR.setSz _ h⟩
  | op81Nop sel => exact ⟨s, t, exec_op81Nop sel s, exec_op81Nop sel t, h⟩
  | jnzRel8 rel =>
    cases hz : s.zf with
    | false => exact ⟨_, _, exec_jnzRel8_taken rel hz, exec_jnzRel8_taken rel (hzf.trans hz), hip ▸ hR.setIp _ h⟩
    | true => exact ⟨s, t, exec_jnzRel8_not_taken rel hz, exec_jnzRel8_not_taken rel (hzf.trans hz), h⟩
  | hlt => exact ⟨_, _, exec_hlt s, exec_hlt t, hR.halt h⟩
  | unrecognized op => exact ⟨_, _, exec_unrecognized op s, exec_unrecognized op t, hip ▸ hR.raise op _ h⟩

/-- Related states halt together, fetch the same instruction and run it alike. -/
theorem Indistinguishable.step {R : State → State → Prop} (hR : Indistinguishable R) {s t : State} (h : R s t) :
    ∃ s' t' : State, step s = .next s' ∧ step t = .next t' ∧ R s' t' := by
  obtain ⟨hhalted, hip, -, -, -, -, hmem⟩ := hR.reads h
  cases hs : s.halted with
  | true => exact ⟨s, t, step_halted hs, step_halted (hhalted.trans hs), h⟩
  | false =>
    have hfetch : t.fetchInstr.1 = s.fetchInstr.1 := by
      simp only [fetchInstr_fst, hip, memRead8_of_mem_eq hmem]
    rw [step_running hs, step_running (hhalted.trans hs), hfetch, hip]
    exact hR.exec _ (hR.setIp _ h)

theorem setReg_setReg_self (s : State) (r : Reg) (v w : Word) : (s.setReg r v).setReg r w = s.setReg r w := by
  cases r <;> rfl

theorem setReg_setReg_comm (s : State) {r q : Reg} (v w : Word) (h : q ≠ r) :
    (s.setReg r w).setReg q v = (s.setReg q v).setReg r w := by
  cases r <;> cases q <;> simp_all [State.setReg]

/-- The second state is the first with another value in a register. -/
def DifferInReg (r : Reg) (s t : State) : Prop := ∃ w : Word, t = s.setReg r w

/-- The second state is the first with other flags, Z excepted. -/
def DifferInFlags (s t : State) : Prop := ∃ f : Word, f.getLsbD 6 = s.flags.getLsbD 6 ∧ t = s.withFlags f

/-- The second state is the first with another halt record. -/
def DifferInHaltRecord (s t : State) : Prop :=
  ∃ (c : BitVec 2) (v : Bool) (op : Byte) (a : Word), t = s.withHaltRecord c v op a

theorem differInReg_indistinguishable {r : Reg} (hr : r ∈ [Reg.bx, .dx, .si, .di, .bp]) :
    Indistinguishable (DifferInReg r) where
  reads := by
    rintro s _ ⟨w, rfl⟩
    simp only [List.mem_cons, List.not_mem_nil, or_false] at hr
    obtain rfl | rfl | rfl | rfl | rfl := hr <;> exact ⟨rfl, rfl, rfl, rfl, rfl, rfl, rfl⟩
  setReg := by
    rintro s _ q v ⟨w, rfl⟩
    by_cases hq : q = r
    · exact ⟨v, by rw [hq, setReg_setReg_self, setReg_setReg_self]⟩
    · exact ⟨w, setReg_setReg_comm s v w hq⟩
  setIp := by rintro s _ target ⟨w, rfl⟩; exact ⟨w, by cases r <;> rfl⟩
  setSz := by rintro s _ v ⟨w, rfl⟩; exact ⟨w, by cases r <;> rfl⟩
  memWrite8 := by rintro s _ a b ⟨w, rfl⟩; exact ⟨w, by cases r <;> rfl⟩
  halt := by rintro s _ ⟨w, rfl⟩; exact ⟨w, by cases r <;> rfl⟩
  raise := by rintro s _ op addr ⟨w, rfl⟩; exact ⟨w, by cases r <;> rfl⟩

theorem differInFlags_indistinguishable : Indistinguishable DifferInFlags where
  reads := by rintro s _ ⟨f, hf, rfl⟩; exact ⟨rfl, rfl, rfl, rfl, rfl, hf, rfl⟩
  setReg := by rintro s _ q v ⟨f, hf, rfl⟩; exact ⟨f, by simpa using hf, by cases q <;> rfl⟩
  setIp := by rintro s _ target ⟨f, hf, rfl⟩; exact ⟨f, hf, rfl⟩
  setSz := by
    rintro s _ v ⟨f, hf, rfl⟩
    have hzero : (szWord f v).getLsbD 6 = (szWord s.flags v).getLsbD 6 := by
      rw [getLsbD_szWord, getLsbD_szWord, if_pos rfl, if_pos rfl]
    exact ⟨szWord f v, hzero, rfl⟩
  memWrite8 := by rintro s _ a b ⟨f, hf, rfl⟩; exact ⟨f, hf, rfl⟩
  halt := by rintro s _ ⟨f, hf, rfl⟩; exact ⟨f, hf, rfl⟩
  raise := by rintro s _ op addr ⟨f, hf, rfl⟩; exact ⟨f, hf, rfl⟩

theorem differInHaltRecord_indistinguishable : Indistinguishable DifferInHaltRecord where
  reads := by rintro s _ ⟨c, v, op, a, rfl⟩; exact ⟨rfl, rfl, rfl, rfl, rfl, rfl, rfl⟩
  setReg := by rintro s _ q w ⟨c, v, op, a, rfl⟩; exact ⟨c, v, op, a, by cases q <;> rfl⟩
  setIp := by rintro s _ target ⟨c, v, op, a, rfl⟩; exact ⟨c, v, op, a, rfl⟩
  setSz := by rintro s _ w ⟨c, v, op, a, rfl⟩; exact ⟨c, v, op, a, rfl⟩
  memWrite8 := by rintro s _ x b ⟨c, v, op, a, rfl⟩; exact ⟨c, v, op, a, rfl⟩
  halt := by rintro s _ ⟨c, v, op, a, rfl⟩; exact ⟨haltCauseHlt, v, op, a, rfl⟩
  raise := by rintro s _ op' addr ⟨c, v, op, a, rfl⟩; exact ⟨haltCauseUnrecognized, true, op', addr, rfl⟩

/-- Settles O31: differing in an unread part only is a relation no operation can tell, so a step keeps it. -/
theorem unreadStateNeverFlows : Obligations.UnreadStateNeverFlows := by
  refine ⟨fun s r v hr => ?_, fun s f hf => ?_, fun s c v op a => ?_⟩
  · obtain ⟨t, u, ht, hu, w, rfl⟩ := (differInReg_indistinguishable hr).step ⟨v, rfl⟩
    exact ⟨t, _, ht, hu, setReg_setReg_self t r w 0#16⟩
  · obtain ⟨t, u, ht, hu, g, hg, rfl⟩ := differInFlags_indistinguishable.step ⟨f, hf, rfl⟩
    exact ⟨t, _, ht, hu, hg, rfl⟩
  · obtain ⟨t, u, ht, hu, c', v', op', a', rfl⟩ := differInHaltRecord_indistinguishable.step ⟨c, v, op, a, rfl⟩
    exact ⟨t, _, ht, hu, rfl⟩

end Sys2Proof.Machine

namespace Sys2Proof.Machine

/-! ## 16-bit accesses and the stack instructions (20_memory.md R201 to R231, 43_stack.md) -/

theorem memRead8_memWrite16_low (s : State) (a v : Word) : (s.memWrite16 a v).memRead8 a = lowByte v := by
  rw [memRead8_memWrite16, if_neg (ne_succ a), if_pos rfl]

theorem memRead8_memWrite16_high (s : State) (a v : Word) : (s.memWrite16 a v).memRead8 (a + 1#16) = highByte v := by
  rw [memRead8_memWrite16, if_pos rfl]

theorem memKeptOutside_memWrite16 (s : State) (a v : Word) : MemKeptOutside [a, a + 1#16] s (s.memWrite16 a v) := by
  intro x hx
  obtain ⟨hlow, hhigh⟩ : x ≠ a ∧ x ≠ a + 1#16 := by simpa using hx
  rw [memRead8_memWrite16, if_neg hhigh, if_neg hlow]

theorem toNat_memRead16 (s : State) (a : Word) :
    (s.memRead16 a).toNat = (s.memRead8 a).toNat + 256 * (s.memRead8 (a + 1#16)).toNat :=
  toNat_wordOfBytes ..

/-- Settles O33: a store places the two halves of the word, and a load joins the two bytes it finds. -/
theorem wordAccessLittleEndian : Obligations.WordAccessLittleEndian := by
  refine fun s a v => ⟨?_, ?_, ?_, memKeptOutside_memWrite16 s a v, memWrite16_eq s a v, toNat_memRead16 s a⟩
  · rw [State.memRead16, memRead8_memWrite16_low, memRead8_memWrite16_high, wordOfBytes_low_high]
  · rw [memRead8_memWrite16_low, toNat_lowByte]
  · rw [memRead8_memWrite16_high, toNat_highByte]

theorem regsKept_push (s : State) (v : Word) : RegsKept [.sp] s (s.push v) := by
  intro r hr
  rw [push_eq, State.memWrite16, getReg_memWrite8, getReg_memWrite8, getReg_setReg_other s _ (by simpa using hr)]

theorem memKeptOutside_push (s : State) (v : Word) :
    MemKeptOutside [s.sp - 2#16, s.sp - 2#16 + 1#16] s (s.push v) := by
  intro x hx
  rw [push_eq, memKeptOutside_memWrite16 _ _ _ x hx, memRead8_setReg]

/-- Settles O19: a push is the store of AX at SP - 2, with SP moved there. -/
theorem pushStoresBelowStackTop : Obligations.PushStoresBelowStackTop :=
  ⟨runsAs_one_byte decodeWindow_pushAx rfl, fun s => ⟨_, exec_pushAx s, toNat_sub_word s.sp 2#16,
    memRead8_memWrite16_low .., memRead8_memWrite16_high .., memKeptOutside_push s s.ax, push_ip s _, push_flags s _,
    regsKept_push s s.ax, ⟨rfl, rfl, rfl, rfl, rfl⟩⟩⟩

/-- Settles O20: AX gets the popped word, and the pop itself writes SP only. -/
theorem popLoadsStackTop : Obligations.PopLoadsStackTop := by
  refine ⟨runsAs_one_byte decodeWindow_popAx rfl, fun s => ⟨_, exec_popAx s, toNat_memRead16 s s.sp,
    BitVec.toNat_add s.sp 2#16, ?_, ?_⟩⟩
  · rw [setReg_flags, pop_snd_flags]
  · exact restKept_setReg_of_mem _ (by decide) (restKept_setReg_of_mem (r := .sp) _ (by decide) (restKept_refl _ s))

/-- Settles O35: the host's pop is the stack unit's. -/
theorem hostPopWritesOnlySp : Obligations.HostPopWritesOnlySp :=
  fun s => ⟨toNat_memRead16 s s.sp, rfl, BitVec.toNat_add s.sp 2#16⟩

end Sys2Proof.Machine

namespace Sys2Proof.Machine

/-! ## The two ways to halt (44_control.md R481, 60_exceptions.md R600) -/

/-- Settles O23: HLT is the halting primitive and nothing else. -/
theorem hltHalts : Obligations.HltHalts :=
  ⟨runsAs_one_byte decodeWindow_hlt rfl, fun s => ⟨_, exec_hlt s, halt_halted s, halt_haltCause s, halt_diagValid s,
    halt_diagOpcode s, halt_diagAddr s, halt_ip s, halt_flags s, fun r _ => getReg_halt s r,
    memKeptOutside_of_mem_eq _ (halt_mem s)⟩⟩

theorem regsKept_raiseUnrecognizedOpcode (s : State) (op : Byte) (addr : Word) :
    RegsKept [] s (s.raiseUnrecognizedOpcode op addr) :=
  fun r _ => getReg_raiseUnrecognizedOpcode s op addr r

theorem runsAs_unrecognized {op : Byte} (h : op ∉ opcodeBytes) : RunsAs [op] (.unrecognized op) :=
  runsAs_one_byte (fun b1 b2 b3 => decodeWindow_unrecognized b1 b2 b3 h) rfl

/-- A Running step on a byte outside the map latches that byte and the IP it started from. -/
theorem step_unrecognized {s : State} (hrunning : s.halted = false) (hop : s.memRead8 s.ip ∉ opcodeBytes) :
    step s = .next ((s.setIp (s.ip + 1#16)).raiseUnrecognizedOpcode (s.memRead8 s.ip) s.ip) := by
  have haddr : s.ip + 1#16 - 1#16 = s.ip := BitVec.add_sub_cancel ..
  have hstep : step s = exec (.unrecognized (s.memRead8 s.ip)) (s.setIp (s.ip + 1#16)) :=
    runsAs_unrecognized hop s hrunning rfl
  rwa [exec_unrecognized, setIp_ip, haddr] at hstep

/-- Settles O24: as an instruction and as a step, the exception writes the halt record and nothing else. -/
theorem unrecognizedOpcodeHalts : Obligations.UnrecognizedOpcodeHalts := by
  refine ⟨fun _ => runsAs_unrecognized, fun op s => ⟨_, exec_unrecognized op s, rfl, rfl, rfl, rfl, rfl, rfl, rfl,
    regsKept_raiseUnrecognizedOpcode s _ _, memKeptOutside_of_mem_eq _ rfl⟩, fun s hrunning hop =>
    ⟨_, step_unrecognized hrunning hop, rfl, rfl, rfl, rfl, rfl, BitVec.toNat_add s.ip 1#16, rfl, fun r hr => ?_,
      memKeptOutside_of_mem_eq _ rfl⟩⟩
  rw [regsKept_raiseUnrecognizedOpcode _ _ _ r hr, regsKept_setIp s _ r hr]

/-! ## `JNZ label` (30_encoding.md R350) -/

/-- The assembled displacement is the signed distance from the byte after the instruction. -/
theorem toInt_of_asmJnz {label address : Word} {rel : Byte} (h : asmJnz label address = some rel) :
    rel.toInt = (label.toNat : Int) - (address.toNat + 2) := by
  simp only [asmJnz] at h
  split at h
  · next hrange =>
    obtain rfl := Option.some.inj h
    rw [BitVec.toInt_ofInt, Int.bmod_def]
    omega
  · cases h

theorem target_of_asmJnz {label address : Word} {rel : Byte} (h : asmJnz label address = some rel) :
    address + 2#16 + relOffset rel = label := by
  have hlabel := label.isLt
  have hnext : (address + 2#16).toNat = (address.toNat + 2) % 65536 := BitVec.toNat_add address 2#16
  have htarget := toNat_add_relOffset (address + 2#16) rel
  rw [toInt_of_asmJnz h, hnext] at htarget
  apply BitVec.eq_of_toNat_eq
  omega

/-- Settles O25: the jump adds the assembled displacement to the address after the instruction, which gives the
label. -/
theorem assembledJnzReachesLabel : Obligations.AssembledJnzReachesLabel := by
  rintro label _ rel hasm s hrunning hz rfl hop hrel
  have hbytes : s.readBytes s.ip 2 = [0x75#8, rel] := by rw [readBytes_two, hop, hrel]
  have hstep := runsAs_jnzRel8 rel s hrunning hbytes
  rw [hstep, exec_jnzRel8_taken rel (by simpa using hz), setIp_setIp, setIp_ip]
  exact congrArg (fun target => Host.Outcome.next (s.setIp target)) (target_of_asmJnz hasm)

end Sys2Proof.Machine

namespace Sys2Proof.Machine

/-! ## Which instruction writes what (10_state.md R101, 43_stack.md) -/

/-- The registers an instruction writes (the table of 10_state.md R101, by instruction). -/
def regsWritten : Instr → List Reg
  | .movAxImm16 _ | .incAx | .decAx => [.ax]
  | .movBxImm16 _ => [.bx]
  | .movCxImm16 _ | .decCx => [.cx]
  | .pushAx => [.sp]
  | .popAx => [.ax, .sp]
  | .mulCx => [.ax, .dx]
  | .f7Nop _ | .cmpCxImm16 _ | .op81Nop _ | .jnzRel8 _ | .hlt | .unrecognized _ => []

theorem RegsKept.setReg {written : List Reg} {s t : State} {r : Reg} (h : RegsKept written s t) (v : Word)
    (hr : r ∈ written) : RegsKept written s (t.setReg r v) := fun q hq => by
  rw [getReg_setReg_other t v (ne_of_mem_of_not_mem hr hq).symm, h q hq]

theorem RegsKept.setSz {written : List Reg} {s t : State} (h : RegsKept written s t) (v : Word) :
    RegsKept written s (t.setSz v) := fun q hq => by
  rw [getReg_setSz, h q hq]

theorem exec_keeps_regs (i : Instr) (s : State) : ∃ t : State, exec i s = .next t ∧ RegsKept (regsWritten i) s t := by
  have hkept := regsKept_refl (regsWritten i) s
  cases i with
  | movAxImm16 imm => exact ⟨_, exec_movAxImm16 imm s, hkept.setReg _ (List.mem_singleton_self _)⟩
  | movBxImm16 imm => exact ⟨_, exec_movBxImm16 imm s, hkept.setReg _ (List.mem_singleton_self _)⟩
  | movCxImm16 imm => exact ⟨_, exec_movCxImm16 imm s, hkept.setReg _ (List.mem_singleton_self _)⟩
  | incAx => exact ⟨_, exec_incAx s, (hkept.setReg _ (by decide)).setSz _⟩
  | decAx => exact ⟨_, exec_decAx s, (hkept.setReg _ (by decide)).setSz _⟩
  | decCx => exact ⟨_, exec_decCx s, (hkept.setReg _ (by decide)).setSz _⟩
  | pushAx => exact ⟨_, exec_pushAx s, regsKept_push s _⟩
  | popAx => exact ⟨_, exec_popAx s, (hkept.setReg (r := .sp) _ (by decide)).setReg _ (by decide)⟩
  | mulCx => exact ⟨_, exec_mulCx s, (hkept.setReg _ (by decide)).setReg _ (by decide)⟩
  | f7Nop sel => exact ⟨s, exec_f7Nop sel s, hkept⟩
  | cmpCxImm16 imm => exact ⟨_, exec_cmpCxImm16 imm s, hkept.setSz _⟩
  | op81Nop sel => exact ⟨s, exec_op81Nop sel s, hkept⟩
  | jnzRel8 rel =>
    cases hz : s.zf with
    | false => exact ⟨_, exec_jnzRel8_taken rel hz, regsKept_setIp s _⟩
    | true => exact ⟨s, exec_jnzRel8_not_taken rel hz, hkept⟩
  | hlt => exact ⟨_, exec_hlt s, fun r _ => getReg_halt s r⟩
  | unrecognized op => exact ⟨_, exec_unrecognized op s, regsKept_raiseUnrecognizedOpcode s _ _⟩

/-- PUSH AX is the one instruction that stores. -/
theorem exec_keeps_mem {i : Instr} (s : State) (hi : i ≠ .pushAx) :
    ∃ t : State, exec i s = .next t ∧ t.mem = s.mem := by
  cases i with
  | pushAx => exact absurd rfl hi
  | jnzRel8 rel =>
    cases hz : s.zf with
    | false => exact ⟨_, exec_jnzRel8_taken rel hz, setIp_mem ..⟩
    | true => exact ⟨s, exec_jnzRel8_not_taken rel hz, rfl⟩
  | _ => exact ⟨_, rfl, rfl⟩

/-- The instructions that call `set_sz` (10_state.md R113). -/
def SetsFlags (i : Instr) : Prop := i = .incAx ∨ i = .decAx ∨ i = .decCx ∨ ∃ imm : Word, i = .cmpCxImm16 imm

theorem not_setsFlags_iff {i : Instr} :
    ¬ SetsFlags i ↔ i ≠ .incAx ∧ i ≠ .decAx ∧ i ≠ .decCx ∧ ∀ imm : Word, i ≠ .cmpCxImm16 imm := by
  simp only [SetsFlags, not_or, not_exists, ne_eq]

/-- The first two bytes of an instruction that writes a piece of state are the spec's for a writer of it. -/
structure WrittenByNamed (b0 b1 : Byte) (i : Instr) : Prop where
  ax : .ax ∈ regsWritten i → b0 ∈ [0xB8#8, 0x40#8, 0x48#8, 0x58#8] ∨ (b0 = 0xF7#8 ∧ b1 = 0xE1#8)
  bx : .bx ∈ regsWritten i → b0 = 0xBB#8
  cx : .cx ∈ regsWritten i → b0 ∈ [0xB9#8, 0x49#8]
  dx : .dx ∈ regsWritten i → b0 = 0xF7#8 ∧ b1 = 0xE1#8
  sp : .sp ∈ regsWritten i → b0 ∈ [0x50#8, 0x58#8]
  si : .si ∉ regsWritten i
  di : .di ∉ regsWritten i
  bp : .bp ∉ regsWritten i
  flags : SetsFlags i → b0 ∈ [0x40#8, 0x48#8, 0x49#8] ∨ (b0 = 0x81#8 ∧ b1 = 0xF9#8)
  mem : i = .pushAx → b0 = 0x50#8

theorem writtenByNamed_decodeWindow (b0 b1 b2 b3 : Byte) : WrittenByNamed b0 b1 (decodeWindow b0 b1 b2 b3) := by
  apply decodeWindow_cases (motive := fun b0 b1 _ _ i => WrittenByNamed b0 b1 i)
  all_goals
    intros
    constructor <;> simp [regsWritten, SetsFlags]

/-- What a Running step changes, its instruction writes. -/
theorem changed_of_step_running {s t : State} (hrunning : s.halted = false) (hstep : step s = .next t) :
    (∀ r : Reg, t.getReg r ≠ s.getReg r → r ∈ regsWritten s.fetchInstr.1) ∧
      (t.flags ≠ s.flags → SetsFlags s.fetchInstr.1) ∧ (t.mem ≠ s.mem → s.fetchInstr.1 = .pushAx) := by
  refine ⟨fun r => Not.imp_symm fun hr => ?_, Not.imp_symm fun hi => ?_, Not.imp_symm fun hi => ?_⟩
  · have hkept := of_step_running hrunning hstep (exec_keeps_regs _ _)
    rw [hkept r hr, getReg_setIp]
  · obtain ⟨hIncAx, hDecAx, hDecCx, hCmpCx⟩ := not_setsFlags_iff.mp hi
    exact of_step_running hrunning hstep (exec_keeps_flags _ _ hIncAx hDecAx hDecCx hCmpCx)
  · exact of_step_running hrunning hstep (exec_keeps_mem _ hi)

/-- Settles O27: a halted step changes nothing; what a Running one changes, the fetched instruction writes, and its
bytes are a named writer's. -/
theorem onlyNamedWritersChangeState : Obligations.OnlyNamedWritersChangeState := by
  intro s t hstep
  cases hs : s.halted with
  | true =>
    obtain rfl := eq_of_step_halted hs hstep
    simp [inertFlagsKept_of_flags_eq]
  | false =>
    obtain ⟨hregs, hflags, hmem⟩ := changed_of_step_running hs hstep
    have hbytes := writtenByNamed_decodeWindow (s.memRead8 s.ip) (s.memRead8 (s.ip + 1#16)) (s.memRead8 (s.ip + 2#16))
      (s.memRead8 (s.ip + 3#16))
    rw [← fetchInstr_fst] at hbytes
    exact ⟨fun _ => rfl, fun h => hbytes.ax (hregs .ax h), fun h => hbytes.bx (hregs .bx h),
      fun h => hbytes.cx (hregs .cx h), fun h => hbytes.dx (hregs .dx h), fun h => hbytes.sp (hregs .sp h),
      not_ne_iff.mp (mt (hregs .si) hbytes.si), not_ne_iff.mp (mt (hregs .di) hbytes.di),
      not_ne_iff.mp (mt (hregs .bp) hbytes.bp), fun h => hbytes.flags (hflags h), step_keeps_inertFlags hstep,
      fun h => hbytes.mem (hmem h)⟩

end Sys2Proof.Machine

namespace Sys2Proof.Machine

/-! ## IP and the halt status after a step (10_state.md R106, 60_exceptions.md R610) -/

/-- Settles O28: only JNZ writes IP, so elsewhere it is past the fetched bytes. -/
theorem ipAfterStep : Obligations.IpAfterStep := by
  intro s hs
  apply step_running_cases hs (fun o => ∃ t : State, o = .next t ∧ t.ip = _)
  case mulCx | f7Nop | cmpCx | op81Nop =>
    intro hop hsel
    simp [hop, hsel]
  case jnz =>
    intro hop
    cases hz : s.zf <;> simp [hop, hz, relOffset]
  case unrecognized =>
    intro hop
    obtain ⟨hMovAx, hMovBx, hMovCx, -, -, -, -, -, hF7, h81, hJnz, -⟩ := not_mem_opcodeBytes.mp hop
    simp [hMovAx, hMovBx, hMovCx, hF7, h81, hJnz]
  all_goals
    intro hop
    simp [hop]

/-- A Running step ends Halted on exactly HLT and the bytes outside the map. -/
theorem step_running_halts_iff {s : State} (hs : s.halted = false) :
    ∃ t : State, step s = .next t ∧ (t.halted = true ↔ s.memRead8 s.ip = 0xF4#8 ∨ s.memRead8 s.ip ∉ opcodeBytes) := by
  apply step_running_cases hs (fun o => ∃ t : State, o = .next t ∧
    (t.halted = true ↔ s.memRead8 s.ip = 0xF4#8 ∨ s.memRead8 s.ip ∉ opcodeBytes))
  case mulCx | f7Nop | cmpCx | op81Nop =>
    intro hop hsel
    simp [hop, hs, opcodeBytes]
  case jnz =>
    intro hop
    cases hz : s.zf <;> simp [hop, hs, hz, opcodeBytes]
  case unrecognized =>
    intro hop
    simp [hop]
  all_goals
    intro hop
    simp [hop, hs, opcodeBytes]

/-- Settles O29: by the rows of the map for a Running core; nothing else here writes the halted flag. -/
theorem haltsOnExactlyTheseOpcodes : Obligations.HaltsOnExactlyTheseOpcodes :=
  ⟨fun _ => step_running_halts_iff, fun s hs => ⟨s, step_halted hs, hs⟩, fun _ hs => hs, rfl⟩

/-- The halt record has two writers, and both halt. -/
theorem exec_halts_or_keeps_status (i : Instr) (s : State) :
    ∃ t : State, exec i s = .next t ∧ (t.halted = true ∨ StatusKept s t) := by
  cases i with
  | hlt => exact ⟨_, exec_hlt s, .inl (halt_halted s)⟩
  | unrecognized op => exact ⟨_, exec_unrecognized op s, .inl (raiseUnrecognizedOpcode_halted ..)⟩
  | jnzRel8 rel =>
    cases hz : s.zf with
    | false => exact ⟨_, exec_jnzRel8_taken rel hz, .inr (statusKept_setIp s _)⟩
    | true => exact ⟨s, exec_jnzRel8_not_taken rel hz, .inr ⟨rfl, rfl, rfl, rfl, rfl⟩⟩
  | _ => exact ⟨_, rfl, .inr ⟨rfl, rfl, rfl, rfl, rfl⟩⟩

/-- Settles O30: a halted step changes nothing, and a Running one that does not halt keeps the record. -/
theorem haltRecordWrittenOnce : Obligations.HaltRecordWrittenOnce := by
  intro s t hstep hchanged
  cases hs : s.halted with
  | true =>
    obtain rfl := eq_of_step_halted hs hstep
    simp at hchanged
  | false =>
    have hstatus := of_step_running hs hstep (exec_halts_or_keeps_status _ _)
    refine ⟨rfl, hstatus.resolve_right fun ⟨_, hcause, hvalid, hopcode, haddr⟩ => ?_⟩
    simp [hcause, hvalid, hopcode, haddr] at hchanged

end Sys2Proof.Machine

namespace Sys2Proof.Machine

/-! ## Booting (70_reset_and_hazards.md R710, 20_memory.md R250) -/

/-- After `Load` of a string from `k` on, the addresses from `k` on hold the string and then what they held. -/
theorem memRead8_loadFrom {s : State} {k : Nat} {bytes : List Byte} (hfits : k + bytes.length ≤ 65536) (a : Word) :
    (s.loadFrom k bytes).memRead8 a =
      if k ≤ a.toNat then bytes.getD (a.toNat - k) (s.memRead8 a) else s.memRead8 a := by
  induction bytes generalizing s k with
  | nil => simp [State.loadFrom]
  | cons b rest ih =>
    rw [List.length_cons] at hfits
    have hk : (BitVec.ofNat 16 k).toNat = k := Nat.mod_eq_of_lt (by omega)
    have hhead : a = BitVec.ofNat 16 k ↔ a.toNat = k := by rw [← BitVec.toNat_inj, hk]
    rw [State.loadFrom, ih (by omega), load_eq, memRead8_memWrite8]
    simp only [hhead]
    obtain hlt | heq | hgt := Nat.lt_trichotomy a.toNat k
    · rw [if_neg (by omega), if_neg (by omega), if_neg (by omega)]
    · rw [if_neg (by omega), if_pos heq, if_pos (by omega), heq, Nat.sub_self, List.getD_cons_zero]
    · rw [if_pos (by omega), if_neg (by omega), if_pos (by omega), ← List.getD_cons_succ (x := b)]
      congr 1
      omega

/-- `Load` writes memory and nothing else. -/
theorem loadFrom_frame (s : State) (k : Nat) (bytes : List Byte) :
    s.loadFrom k bytes = { s with mem := (s.loadFrom k bytes).mem } := by
  induction bytes generalizing s k with
  | nil => rfl
  | cons b rest ih => exact ih (s.load (BitVec.ofNat 16 k) b) (k + 1)

/-- Settles O36: the program is loaded from address 0 over the zeros of reset. -/
theorem bootPlacesProgram : Obligations.BootPlacesProgram := by
  refine fun program hfits => ⟨fun a => ?_, loadFrom_frame State.reset 0 program, wf_loadFrom 0 program Memory.wf_reset⟩
  rw [boot_eq, memRead8_loadFrom (by omega), if_pos (Nat.zero_le _)]
  rfl

/-- Settles O12: each clause reads a constant of the reset table. -/
theorem resetValues : Obligations.ResetValues :=
  ⟨fun r => by cases r <;> rfl, rfl, rfl, rfl, rfl, rfl, rfl, rfl, fun _ => rfl⟩

/-- Settles O5: each word is the encoding of its instruction followed by the rest. -/
theorem specWordsDecode : Obligations.SpecWordsDecode :=
  ⟨decodeInvertsEncode (.movAxImm16 0x1234#16) [] rfl, decodeInvertsEncode (.movCxImm16 0x0005#16) [] rfl,
    decodeInvertsEncode .decCx [] rfl, decodeInvertsEncode .mulCx [] rfl, decodeInvertsEncode (.f7Nop 0xE0#8) [] rfl,
    decodeInvertsEncode (.cmpCxImm16 0x8001#16) [] rfl, decodeInvertsEncode (.op81Nop 0xF8#8) [0x05#8, 0x00#8] rfl,
    decodeInvertsEncode .pushAx [] rfl, decodeInvertsEncode (.jnzRel8 0xF7#8) [] rfl, decodeInvertsEncode .hlt [] rfl,
    decodeInvertsEncode (.unrecognized 0x90#8) [] rfl⟩

end Sys2Proof.Machine

namespace Sys2Proof.Machine

/-! ## The end of a run (70_reset_and_hazards.md R720 to R722) -/

/-- `t` is the state after `n` steps from `s` and the first Halted one of that run. -/
def FirstHalt (n : Nat) (s t : State) : Prop :=
  Sys2Proof.core.run n s = .next t ∧ t.halted = true ∧
    ∀ m : Nat, m < n → ∃ u : State, Sys2Proof.core.run m s = .next u ∧ u.halted = false

theorem run_zero_eq_next {s t : State} : Sys2Proof.core.run 0 s = .next t ↔ s = t := by
  rw [core_run_zero]
  exact ⟨Host.Outcome.next.inj, congrArg _⟩

/-- A run from a Halted state stays there (R321). -/
theorem run_halted {s : State} (hs : s.halted = true) (n : Nat) : Sys2Proof.core.run n s = .next s := by
  induction n with
  | zero => rfl
  | succ n ih => rw [core_run_succ n (step_halted hs), ih]

/-- The first halt of a run from a Halted state is that state. -/
theorem firstHalt_of_halted {s t : State} (hs : s.halted = true) (n : Nat) : FirstHalt n s t ↔ n = 0 ∧ s = t := by
  constructor
  · rintro ⟨hrun, -, hearlier⟩
    rw [run_halted hs] at hrun
    refine ⟨Nat.eq_zero_of_not_pos fun hpos => ?_, Host.Outcome.next.inj hrun⟩
    obtain ⟨u, hu, hrunning⟩ := hearlier 0 hpos
    obtain rfl := run_zero_eq_next.mp hu
    simp [hs] at hrunning
  · rintro ⟨rfl, rfl⟩
    exact ⟨rfl, hs, nofun⟩

theorem not_firstHalt_zero {s t : State} (hs : s.halted = false) : ¬ FirstHalt 0 s t := by
  rintro ⟨hrun, ht, -⟩
  obtain rfl := run_zero_eq_next.mp hrun
  simp [hs] at ht

theorem firstHalt_succ {s s' t : State} (hs : s.halted = false) (hstep : step s = .next s') (n : Nat) :
    FirstHalt (n + 1) s t ↔ FirstHalt n s' t := by
  have hstart : ∃ u : State, Sys2Proof.core.run 0 s = .next u ∧ u.halted = false := ⟨s, rfl, hs⟩
  simp only [FirstHalt, core_run_succ _ hstep, Nat.forall_lt_succ_left, hstart, true_and]

theorem drive_endsHalted_iff (cap : Nat) (s t : State) : drive cap s = .endsHalted t ↔ ∃ n ≤ cap, FirstHalt n s t := by
  induction cap generalizing s with
  | zero =>
    cases hs : s.halted with
    | true => simp [drive_halted 0 hs, firstHalt_of_halted hs]
    | false => simp [drive, hs, not_firstHalt_zero hs]
  | succ cap ih =>
    cases hs : s.halted with
    | true => simp [drive_halted (cap + 1) hs, firstHalt_of_halted hs]
    | false =>
      obtain ⟨s', hstep⟩ := everyStepCompletes s
      rw [drive_succ cap hs hstep, ih]
      constructor
      · rintro ⟨n, hn, hfirst⟩
        exact ⟨n + 1, Nat.succ_le_succ hn, (firstHalt_succ hs hstep n).mpr hfirst⟩
      · rintro ⟨_ | n, hn, hfirst⟩
        · exact absurd hfirst (not_firstHalt_zero hs)
        · exact ⟨n, Nat.le_of_succ_le_succ hn, (firstHalt_succ hs hstep n).mp hfirst⟩

/-- From a Halted state both sides fail: the driver ends halted, and the run ends where it began. -/
theorem drive_endsCapped_iff_of_halted {s t : State} (hs : s.halted = true) (cap : Nat) :
    drive cap s = .endsCapped t ↔ Sys2Proof.core.run cap s = .next t ∧ t.halted = false := by
  rw [drive_halted cap hs, run_halted hs]
  refine iff_of_false nofun ?_
  rintro ⟨hrun, ht⟩
  obtain rfl := Host.Outcome.next.inj hrun
  simp [hs] at ht

theorem drive_endsCapped_iff (cap : Nat) (s t : State) :
    drive cap s = .endsCapped t ↔ Sys2Proof.core.run cap s = .next t ∧ t.halted = false := by
  induction cap generalizing s with
  | zero =>
    cases hs : s.halted with
    | true => exact drive_endsCapped_iff_of_halted hs 0
    | false =>
      rw [run_zero_eq_next, drive, hs, if_neg Bool.false_ne_true, RunEnd.endsCapped.injEq]
      exact ⟨fun h => ⟨h, h ▸ hs⟩, And.left⟩
  | succ cap ih =>
    cases hs : s.halted with
    | true => exact drive_endsCapped_iff_of_halted hs (cap + 1)
    | false =>
      obtain ⟨s', hstep⟩ := everyStepCompletes s
      rw [drive_succ cap hs hstep, core_run_succ cap hstep, ih]

/-- Settles O37: by induction on the cap, a step at a time from the front of the run. -/
theorem driveEndsAtFirstHalt : Obligations.DriveEndsAtFirstHalt :=
  ⟨drive_endsHalted_iff, drive_endsCapped_iff⟩

end Sys2Proof.Machine

namespace Sys2Proof.Machine

/-! ## What the host observes (20_memory.md R251) -/

/-- Below the first address of a canonical list every byte is that of reset. -/
theorem Memory.read_of_wfFrom_lt {lo a : Nat} {m : Memory} (h : Memory.wfFrom lo m = true) (ha : a < lo) :
    m.read a = Config.memReset := by
  induction m generalizing lo with
  | nil => rfl
  | cons cell m ih =>
    obtain ⟨k, c⟩ := cell
    obtain ⟨hlo, -, -, htail⟩ := (Memory.wfFrom_cons ..).mp h
    rw [Memory.read_cons, if_neg (by omega), ih htail (by omega)]

theorem Memory.wfFrom_from_head {lo k : Nat} {c : Byte} {m : Memory} (h : Memory.wfFrom lo ((k, c) :: m) = true) :
    Memory.wfFrom k ((k, c) :: m) = true := by
  rw [Memory.wfFrom_cons] at h ⊢
  exact ⟨le_rfl, h.right⟩

/-- Two canonical lists that agree on every address of the memory are the same list: were their first addresses not the
same, the lower one would hold 0x00 in the other. -/
theorem Memory.eq_of_read_eq {lo : Nat} {m m' : Memory} (h : Memory.wfFrom lo m = true)
    (h' : Memory.wfFrom lo m' = true) (hread : ∀ a < Config.memSize, m.read a = m'.read a) : m = m' := by
  induction m generalizing lo m' with
  | nil =>
    cases m' with
    | nil => rfl
    | cons cell' m' =>
      obtain ⟨k', c'⟩ := cell'
      obtain ⟨-, hk', hc', -⟩ := (Memory.wfFrom_cons ..).mp h'
      exact absurd (by simpa [Memory.read_cons] using (hread k' hk').symm) hc'
  | cons cell m ih =>
    obtain ⟨k, c⟩ := cell
    obtain ⟨-, hk, hc, htail⟩ := (Memory.wfFrom_cons ..).mp h
    cases m' with
    | nil => exact absurd (by simpa [Memory.read_cons] using hread k hk) hc
    | cons cell' m' =>
      obtain ⟨k', c'⟩ := cell'
      obtain ⟨-, hk', hc', htail'⟩ := (Memory.wfFrom_cons ..).mp h'
      obtain hlt | rfl | hgt := Nat.lt_trichotomy k k'
      · have hreset := Memory.read_of_wfFrom_lt (Memory.wfFrom_from_head h') hlt
        exact absurd (by simpa [Memory.read_cons, hreset] using hread k hk) hc
      · have hcell : c = c' := by simpa [Memory.read_cons] using hread k hk
        rw [hcell, ih htail htail' fun a ha => ?_]
        obtain hlt | hge := Nat.lt_or_ge k a
        · simpa [Memory.read_cons, hlt.ne] using hread a ha
        · have hbefore := Nat.lt_succ_of_le hge
          rw [Memory.read_of_wfFrom_lt htail hbefore, Memory.read_of_wfFrom_lt htail' hbefore]
      · have hreset := Memory.read_of_wfFrom_lt (Memory.wfFrom_from_head h) hgt
        exact absurd (by simpa [Memory.read_cons, hreset] using (hread k' hk').symm) hc'

theorem bool_eq_of_toNat_eq {a b : Bool} (h : a.toNat = b.toNat) : a = b := by
  cases a <;> cases b <;> simp_all

theorem mem_eq_of_memRead8_eq {s t : State} (hs : s.mem.wf = true) (ht : t.mem.wf = true)
    (h : ∀ a : Word, s.memRead8 a = t.memRead8 a) : s.mem = t.mem := by
  refine Memory.eq_of_read_eq hs ht fun a ha => ?_
  have hword : (BitVec.ofNat 16 a).toNat = a := Nat.mod_eq_of_lt ha
  simpa [State.memRead8, hword] using h (BitVec.ofNat 16 a)

/-- Settles O38: every field but memory is observed as it is, and a canonical memory is its bytes. -/
theorem observationDeterminesState : Obligations.ObservationDeterminesState := by
  intro s t hs ht h
  have hreg : ∀ r : Reg, s.getReg r = t.getReg r := fun r => BitVec.eq_of_toNat_eq (h (.reg r))
  have hmem : s.mem = t.mem := mem_eq_of_memRead8_eq hs ht fun a => BitVec.eq_of_toNat_eq (h (.memByte a))
  have hip : s.ip = t.ip := BitVec.eq_of_toNat_eq (h .ip)
  have hflags : s.flags = t.flags := BitVec.eq_of_toNat_eq (h .flags)
  have hhalted : s.halted = t.halted := bool_eq_of_toNat_eq (h .halted)
  have hcause : s.haltCause = t.haltCause := BitVec.eq_of_toNat_eq (h .haltCause)
  have hvalid : s.diagValid = t.diagValid := bool_eq_of_toNat_eq (h .diagValid)
  have hopcode : s.diagOpcode = t.diagOpcode := BitVec.eq_of_toNat_eq (h .diagOpcode)
  have haddr : s.diagAddr = t.diagAddr := BitVec.eq_of_toNat_eq (h .diagAddr)
  cases s
  cases t
  rw [State.mk.injEq]
  exact ⟨hreg .ax, hreg .bx, hreg .cx, hreg .dx, hreg .si, hreg .di, hreg .sp, hreg .bp, hip, hflags, hhalted, hcause,
    hvalid, hopcode, haddr, hmem⟩

end Sys2Proof.Machine
